-- ==== Sys2Proof/Word.lean ====
section
/-! DEFINITION. The word types of the FrameDecoder core (spec/00_scope.md R10). -/

namespace Sys2Proof

/-- R10: an 8-bit value read as an unsigned integer 0..255. -/
abbrev Byte := BitVec 8

/-- R10: a 16-bit value read as an unsigned integer 0..65535. -/
abbrev Word16 := BitVec 16

/-- R55: the 20-bit selector word `S`. -/
abbrev Selector := BitVec 20

end Sys2Proof
end

