-- ==== Sys2Proof/Config.lean ====
section
/-! DEFINITION. The implementation parameters the spec names (spec/00_scope.md R9), at the values it
fixes. The literals are unaudited by the requester and normative for the spec (D7, 93 U4): log 9. -/

namespace Sys2Proof.Config

/-- R9 `MARKER`: the value of each of the two marker bytes. -/
def MARKER : Byte := 0x01#8

/-- R9 `HIGH_LIMIT`: a frame is rejected when `256 * high > HIGH_LIMIT`. -/
def HIGH_LIMIT : Word16 := 0x0100#16

/-- R9 `SCALE`: the measurement is `raw / SCALE`. -/
def SCALE : Nat := 10

/-- R9 `LEV_INIT`: the reset value of `lastEmittedValue`, the dedup sentinel. -/
def LEV_INIT : Word16 := 0x0000#16

end Sys2Proof.Config
end

