-- ==== Sys2Proof/Machine/State.lean ====
section
/-! DEFINITION. The state of the block: the five fields of `DecoderState` and the two output registers
(spec/10_state.md R14), beside the input edges the host is still to present (the model's own field). -/

namespace Sys2Proof.Machine

/-- R15: whether a valid start marker has been observed. -/
inductive SyncState where
  | seeking
  | inFrame
  deriving DecidableEq, Repr

/-- R14, R27: the core's only persistent entity. -/
structure DecoderState where
  /-- R15 -/
  syncState : SyncState
  /-- R16 -/
  awaitingHighByte : Bool
  /-- R17 -/
  lastMarkerByte : Byte
  /-- R18 -/
  rawValue : Word16
  /-- R19 -/
  lastEmittedValue : Word16
  deriving DecidableEq, Repr

/-- R63: the input ports as one rising edge of `clk` samples them. -/
structure InputEdge where
  rst : Bool
  inValid : Bool
  inByte : Byte
  deriving DecidableEq, Repr

/-- R23: the names of the three reachable control states. -/
inductive Control where
  | seek
  | high
  | low
  deriving DecidableEq, Repr

/-- The machine between two edges of `clk`. -/
structure State where
  /-- R14 to R19 -/
  decoder : DecoderState
  /-- R20: output register `pub_valid` -/
  pubValid : Bool
  /-- R21: output register `pub_raw` -/
  pubRaw : Word16
  /-- DESIGN CHOICE (log 1, safe): the edges the host is still to present, earliest first. -/
  inputs : List InputEdge
  deriving DecidableEq, Repr

/-- R84: the block raises no exceptions, so there is no reason to fault (log 10). -/
inductive Fault where
  deriving DecidableEq, Repr

/-- Reasons for a step without a meaning. R62 says the block never refuses. -/
inductive Refusal where
  /-- Raised by `exec` for an operation without a meaning (safe); no arm raises it in this model. -/
  | notModelled (mnemonic : String)
  /-- Raised by `step` if no row of R57 matched the selector (safe); R56 says one always does. -/
  | noOperation
  deriving DecidableEq, Repr

/-- R98 `ResetState`. -/
def DecoderState.reset : DecoderState :=
  { syncState := .seeking
    awaitingHighByte := false
    lastMarkerByte := 0x00#8
    rawValue := 0x0000#16
    lastEmittedValue := Config.LEV_INIT }

/-- R98, R101: the machine right after reset, with no edge waiting (log 1, log 2). -/
def State.reset : State :=
  { decoder := DecoderState.reset
    pubValid := false
    pubRaw := 0x0000#16
    inputs := [] }

end Sys2Proof.Machine
end

