-- ==== Sys2Proof/Machine/Operands.lean ====
section
/-! DEFINITION. How operations read their operands: the input byte, the payload arithmetic of
spec/30_encoding.md R52 and spec/42_frame_assembly.md R71, R76, and the bits of R15 and R16. All
arithmetic is unsigned (R10). -/

namespace Sys2Proof.Machine

/-- R10 `zext_16(b)`. -/
def zext16 (b : Byte) : Word16 := b.setWidth 16

/-- R52, R72, R73: the high byte becomes `zext_16(b) << 8`. -/
def highPart (b : Byte) : Word16 := zext16 b <<< 8

/-- R74: the low byte is added, modulo 2^16. -/
def addLow (raw : Word16) (b : Byte) : Word16 := raw + zext16 b

/-- R71: the range validator, `valid(b) = (zext_16(b) << 8) <= 0x0100`. -/
def validHigh (b : Byte) : Bool := decide (highPart b ≤ Config.HIGH_LIMIT)

/-- R67: the marker comparison of the input byte with the lookback. -/
def isMarker (lastMarkerByte b : Byte) : Bool :=
  b == Config.MARKER && lastMarkerByte == Config.MARKER

/-- R15: the bit of `syncState`. -/
def SyncState.bit : SyncState → Bool
  | .seeking => false
  | .inFrame => true

/-- R15: the `syncState` of a bit. -/
def SyncState.ofBit : Bool → SyncState
  | false => .seeking
  | true => .inFrame

end Sys2Proof.Machine
end

