-- ==== Sys2Proof/Machine/Ops.lean ====
section
/-! DEFINITION. The shared operations over the registers: one write per field, the event of a step,
and what a clock edge does to the output registers (spec/40_onbyte.md R63).

Taking an exception and returning from one have no operation here: the block has neither
(spec/60_exceptions.md R84, R90). Framing-error recovery (R85) is the ordinary operation HIGH_REJECT. -/

namespace Sys2Proof.Machine

/-! ### Field writes (R11: `s.f <- v`) -/

/-- Write `syncState` (R15). -/
def DecoderState.setSync (d : DecoderState) (v : SyncState) : DecoderState :=
  { d with syncState := v }

/-- Write `awaitingHighByte` (R16). -/
def DecoderState.setAwaiting (d : DecoderState) (v : Bool) : DecoderState :=
  { d with awaitingHighByte := v }

/-- Write `lastMarkerByte` (R17). -/
def DecoderState.setLookback (d : DecoderState) (v : Byte) : DecoderState :=
  { d with lastMarkerByte := v }

/-- Write `rawValue` (R18). -/
def DecoderState.setRaw (d : DecoderState) (v : Word16) : DecoderState :=
  { d with rawValue := v }

/-- Write `lastEmittedValue` (R19). -/
def DecoderState.setLatch (d : DecoderState) (v : Word16) : DecoderState :=
  { d with lastEmittedValue := v }

/-- R23: the control state. (Seeking, true) is treated as SEEK. -/
def DecoderState.control (d : DecoderState) : Control :=
  match d.syncState, d.awaitingHighByte with
  | .seeking, _ => .seek
  | .inFrame, true => .high
  | .inFrame, false => .low

/-! ### Events and the clock edge -/

/-- R12 `pub`: the output event of a step, none or `some v`. -/
abbrev Event := Option Word16

/-- R63: the edge of a step that is no RESET and whose step function answered `(d, pub)`. -/
def clockEdge (s : State) (d : DecoderState) (pub : Event) :
    Host.Outcome State Fault Refusal :=
  match pub with
  | some v => .next { s with decoder := d, pubValid := true, pubRaw := v }
  | none => .next { s with decoder := d, pubValid := false }

/-- R63: the edge of a step with `rst = 1`. -/
def clockReset (s : State) (d : DecoderState) : Host.Outcome State Fault Refusal :=
  .next { s with decoder := d, pubValid := false, pubRaw := 0x0000#16 }

/-- R20, R21, R26: what the sink reads in the cycle after an edge: `pub_raw`, only while
`pub_valid` is 1. -/
def State.event (s : State) : Event :=
  if s.pubValid then some s.pubRaw else none

/-- R82: the physical value an event `v` stands for, the exact rational `v / 10`. The block does not
compute it; the sink does (log 5). -/
def measurement (v : Word16) : Rat := (v.toNat : Rat) / (Config.SCALE : Rat)

/-- R82, D6: the measurement in the sink's number format, the OPEN parameter `MEAS_FORMAT`, taken as
an argument (log 5). -/
def measurementIn {α : Type} (measFormat : Rat → α) (v : Word16) : α :=
  measFormat (measurement v)

end Sys2Proof.Machine
end

