-- ==== Sys2Proof/Machine/Flags.lean ====
section
/-! DEFINITION. The two internal flags of the block, `syncState` and `awaitingHighByte`
(spec/10_state.md R24: it has no condition codes), as the operations write them, and the two
comparisons whose outcome is an event. -/

namespace Sys2Proof.Machine

/-- R67: entering a frame sets `syncState` to InFrame, the lookback to 0x00 (consumed) and
`awaitingHighByte` to 1. -/
def DecoderState.openFrame (d : DecoderState) : DecoderState :=
  ((d.setSync .inFrame).setLookback 0x00#8).setAwaiting true

/-- R72, R73: the high byte has been taken. -/
def DecoderState.highTaken (d : DecoderState) : DecoderState := d.setAwaiting false

/-- R73, R74: back to marker seeking. -/
def DecoderState.leaveFrame (d : DecoderState) : DecoderState := d.setSync .seeking

/-- R77: the dedup comparator, all 16 bits; R81: `Publish(v)` sets the event to `some v`. -/
def dedupEvent (raw latch : Word16) : Event :=
  if raw ≠ latch then some raw else none

end Sys2Proof.Machine
end

