-- ==== Sys2Proof/Machine/PhaseA.lean ====
section
/-! DEFINITION. Phase A, marker seeking (spec/41_marker_seek.md): SEEK_MARK and SEEK_SHIFT. -/

namespace Sys2Proof.Machine

/-- R67 SEEK_MARK: the marker is recognised. -/
def execSeekMark (s : State) : Host.Outcome State Fault Refusal :=
  clockEdge s s.decoder.openFrame none

/-- R68 SEEK_SHIFT: no marker; the lookback takes the byte. -/
def execSeekShift (b : Byte) (s : State) : Host.Outcome State Fault Refusal :=
  clockEdge s (s.decoder.setLookback b) none

end Sys2Proof.Machine
end

