-- ==== Sys2Proof/Machine/PhaseB.lean ====
section
/-! DEFINITION. Phase B, frame assembly and range validation (spec/42_frame_assembly.md):
HIGH_ACCEPT, HIGH_REJECT and LOW, the last with the dedup comparator and the publish port
(spec/43_dedup_publish.md). -/

namespace Sys2Proof.Machine

/-- R72 HIGH_ACCEPT: take a plausible high byte. -/
def execHighAccept (b : Byte) (s : State) : Host.Outcome State Fault Refusal :=
  clockEdge s (s.decoder.setRaw (highPart b)).highTaken none

/-- R73 HIGH_REJECT: framing error; the frame is abandoned. -/
def execHighReject (b : Byte) (s : State) : Host.Outcome State Fault Refusal :=
  clockEdge s (s.decoder.setRaw (highPart b)).highTaken.leaveFrame none

/-- R74 LOW: the frame is complete. The comparator reads the new `rawValue` and the old latch (R77);
the latch is then written whether or not they differ (R78). -/
def execLow (b : Byte) (s : State) : Host.Outcome State Fault Refusal :=
  let d := (s.decoder.setRaw (addLow s.decoder.rawValue b)).leaveFrame
  clockEdge s (d.setLatch d.rawValue) (dedupEvent d.rawValue d.lastEmittedValue)

end Sys2Proof.Machine
end

