-- ==== Sys2Proof/Machine/ResetNop.lean ====
section
/-! DEFINITION. The operations that take no byte: RESET (spec/70_reset_and_hazards.md R98) and NOP
(spec/40_onbyte.md R66). -/

namespace Sys2Proof.Machine

/-- R98 RESET: every register to its reset value, the output registers with it (R63). -/
def execReset (s : State) : Host.Outcome State Fault Refusal :=
  clockReset s DecoderState.reset

/-- R66 NOP: skip. -/
def execNop (s : State) : Host.Outcome State Fault Refusal :=
  clockEdge s s.decoder none

end Sys2Proof.Machine
end

