-- ==== Sys2Proof/Syntax.lean ====
section
/-! DEFINITION. The seven operations of the block, one constructor per row of spec/opcode_table.json
(spec/30_encoding.md R57), with the operands their own rules give them. Selector bits a row ignores
are no operands (R57, log 12). -/

namespace Sys2Proof

/-- The names of the rows of R57. -/
inductive Op where
  | reset
  | nop
  | seekMark
  | seekShift
  | highAccept
  | highReject
  | low
  deriving DecidableEq, Repr

/-- One operation with its operand. `b` is the input byte the step takes. -/
inductive Instr where
  /-- RESET (R98): no operands. -/
  | reset
  /-- NOP (R66): no operands. -/
  | nop
  /-- SEEK_MARK (R67): its input byte is fixed by the row at 0x01. -/
  | seekMark
  /-- SEEK_SHIFT (R68): any input byte. -/
  | seekShift (b : Byte)
  /-- HIGH_ACCEPT (R72): an input byte with `b <= 1`. -/
  | highAccept (b : Byte)
  /-- HIGH_REJECT (R73): an input byte with `b >= 2`. -/
  | highReject (b : Byte)
  /-- LOW (R74): any input byte. -/
  | low (b : Byte)
  deriving DecidableEq, Repr

/-- The row of R57 an operation is written in. -/
def Instr.op : Instr → Op
  | .reset => .reset
  | .nop => .nop
  | .seekMark => .seekMark
  | .seekShift _ => .seekShift
  | .highAccept _ => .highAccept
  | .highReject _ => .highReject
  | .low _ => .low

end Sys2Proof
end

