-- ==== Sys2Proof/Machine/Dispatch.lean ====
section
/-! DEFINITION. One arm per operation of spec/30_encoding.md R57. -/

namespace Sys2Proof.Machine

def exec (i : Instr) (s : State) : Host.Outcome State Fault Refusal :=
  match i with
  | .reset => Sys2Proof.Machine.execReset s
  | .nop => Sys2Proof.Machine.execNop s
  | .seekMark => Sys2Proof.Machine.execSeekMark s
  | .seekShift b => Sys2Proof.Machine.execSeekShift b s
  | .highAccept b => Sys2Proof.Machine.execHighAccept b s
  | .highReject b => Sys2Proof.Machine.execHighReject b s
  | .low b => Sys2Proof.Machine.execLow b s

end Sys2Proof.Machine
end

