-- ==== Sys2Proof/WellFormed.lean ====
section
/-! DEFINITION. Which operands an operation can have (spec/42_frame_assembly.md R72, R73: the operand
lines; every other operand is unrestricted). -/

namespace Sys2Proof

/-- R72: HIGH_ACCEPT takes `b <= 1`. R73: HIGH_REJECT takes `b >= 2`. -/
def Instr.wf : Instr → Bool
  | .reset => true
  | .nop => true
  | .seekMark => true
  | .seekShift _ => true
  | .highAccept b => decide (b.toNat ≤ 1)
  | .highReject b => decide (2 ≤ b.toNat)
  | .low _ => true

end Sys2Proof
end

