-- ==== Sys2Proof/Decode.lean ====
section
/-! DEFINITION. The operation selector: its layout (spec/30_encoding.md R55), its decoding by the
first matching row (R56, R57), and the encoder written from the same table. -/

namespace Sys2Proof

/-- Why a word is no operation. -/
inductive DecodeError where
  /-- No row of R57 matches. R56 says the rows cover every selector, so this never arises. -/
  | noRow
  /-- The number has a bit above bit 19, so it is no selector word (R55). -/
  | beyondSelector
  deriving DecidableEq, Repr

/-! ### The fields of a selector word (R55) -/

/-- `S[19]`, the reset input. -/
def selRst (S : Selector) : Bool := S.getLsbD 19

/-- `S[18:11]`, `lastMarkerByte`. -/
def selLmb (S : Selector) : Byte := S.extractLsb' 11 8

/-- `S[10]`, `in_valid`. -/
def selValid (S : Selector) : Bool := S.getLsbD 10

/-- `S[9]`, `syncState`: 0 is Seeking, 1 is InFrame. -/
def selSync (S : Selector) : Bool := S.getLsbD 9

/-- `S[8]`, `awaitingHighByte`. -/
def selAhb (S : Selector) : Bool := S.getLsbD 8

/-- `S[7:0]`, the input byte. -/
def selByte (S : Selector) : Byte := S.extractLsb' 0 8

/-! ### The operation table (R57) -/

/-- One row: it matches `S` when `(S & mask) == value`. -/
structure Row where
  prio  : Nat
  op    : Op
  mask  : Selector
  value : Selector
  deriving DecidableEq, Repr

/-- The rows of R57, in the table's columns prio, mnemonic, mask, match. -/
def rowOf : Op → Row
  | .reset      => ⟨1, .reset,      0x80000#20, 0x80000#20⟩
  | .nop        => ⟨2, .nop,        0x80400#20, 0x00000#20⟩
  | .seekMark   => ⟨3, .seekMark,   0xFFEFF#20, 0x00C01#20⟩
  | .seekShift  => ⟨4, .seekShift,  0x80600#20, 0x00400#20⟩
  | .highAccept => ⟨5, .highAccept, 0x807FE#20, 0x00700#20⟩
  | .highReject => ⟨6, .highReject, 0x80700#20, 0x00700#20⟩
  | .low        => ⟨7, .low,        0x80700#20, 0x00600#20⟩

/-- R57: the table in priority order. -/
def opTable : List Row :=
  [rowOf .reset, rowOf .nop, rowOf .seekMark, rowOf .seekShift, rowOf .highAccept,
   rowOf .highReject, rowOf .low]

/-- R56: `(S & mask) == match`. -/
def Row.hits (r : Row) (S : Selector) : Bool := (S &&& r.mask) == r.value

/-- The operation of a matched row, its operand read from `S[7:0]` (R55). -/
def buildInstr : Op → Selector → Instr
  | .reset, _ => .reset
  | .nop, _ => .nop
  | .seekMark, _ => .seekMark
  | .seekShift, S => .seekShift (selByte S)
  | .highAccept, S => .highAccept (selByte S)
  | .highReject, S => .highReject (selByte S)
  | .low, S => .low (selByte S)

/-- R56: the first row of the table that matches is the operation. -/
def decode (S : Selector) : Except DecodeError Instr :=
  match opTable.find? (fun r => r.hits S) with
  | some r => .ok (buildInstr r.op S)
  | none => .error .noRow

/-- Decoding of any number: one that is no 20-bit selector word is rejected by name. -/
def decodeNat (w : Nat) : Except DecodeError Instr :=
  if w < 2 ^ 20 then decode (BitVec.ofNat 20 w) else .error .beyondSelector

/-- The decoder on a word numbered as spec/opcode_table.json numbers it: the table's bits are the
selector's own (R55), bit 0 least significant (log 7). -/
def decodeTableWord (nbits w : Nat) : Option Instr :=
  match decodeNat (w % 2 ^ nbits) with
  | .ok i => some i
  | .error _ => none

/-! ### The encoder -/

/-- The operand of an operation, at the selector's `S[7:0]`. -/
def operandBits : Instr → Selector
  | .reset => 0#20
  | .nop => 0#20
  | .seekMark => 0#20
  | .seekShift b => b.setWidth 20
  | .highAccept b => b.setWidth 20
  | .highReject b => b.setWidth 20
  | .low b => b.setWidth 20

/-- The selector bits the operand of an operation stands in: the letters `b` of its pattern. -/
def operandMask : Op → Selector
  | .reset => 0#20
  | .nop => 0#20
  | .seekMark => 0#20
  | .seekShift => 0x000FF#20
  | .highAccept => 0x00001#20
  | .highReject => 0x000FF#20
  | .low => 0x000FF#20

/-- The bits of a selector word that the row of an operation neither fixes nor reads as operand. -/
def ignoredMask (o : Op) : Selector := ~~~((rowOf o).mask ||| operandMask o)

/-- The selector word of an operation whose ignored bits are those of `dc`. -/
def encodeIn (dc : Selector) (i : Instr) : Selector :=
  (rowOf i.op).value ||| operandBits i ||| (dc &&& ignoredMask i.op)

/-- The selector word of an operation with every ignored bit 0 (log 12). -/
def encode (i : Instr) : Selector := encodeIn 0#20 i

/-- R68: SEEK_SHIFT is "not SEEK_MARK", so its byte 0x01 goes with no lookback of 0x01. -/
def admits (dc : Selector) : Instr → Bool
  | .reset => true
  | .nop => true
  | .seekMark => true
  | .seekShift b => !(b == 0x01#8 && selLmb dc == 0x01#8)
  | .highAccept _ => true
  | .highReject _ => true
  | .low _ => true

end Sys2Proof
end

