-- ==== Sys2Proof/Machine/Fetch.lean ====
section
/-! DEFINITION. How a step comes by its operation: the input edge it samples (spec/40_onbyte.md R63),
the selector word formed from that edge and the state before the step (spec/30_encoding.md R55), and
its decoding (R56). -/

namespace Sys2Proof.Machine

/-- R64, R97: an edge with nothing presented; its byte is not sampled. -/
def idleEdge : InputEdge := { rst := false, inValid := false, inByte := 0x00#8 }

/-- The edge the next step samples. With no edge waiting the host holds `in_valid = 0`, as R97 lets
it for any number of edges (log 1). -/
def State.edge (s : State) : InputEdge := s.inputs.headD idleEdge

/-- R35, R43: the sampled edge is gone and the next step sees the next one. -/
def State.afterEdge (s : State) : State := { s with inputs := s.inputs.tail }

/-- R55: the layout of the selector word, from S[19] down. -/
def selectorOf (d : DecoderState) (e : InputEdge) : Selector :=
  BitVec.ofBool e.rst ++ d.lastMarkerByte ++ BitVec.ofBool e.inValid
    ++ BitVec.ofBool d.syncState.bit ++ BitVec.ofBool d.awaitingHighByte ++ e.inByte

/-- The operation the next step performs. -/
def State.operation (s : State) : Except DecodeError Instr :=
  decode (selectorOf s.decoder s.edge)

/-- The operation of the next step, and the state it acts on. -/
def fetch (s : State) : Except DecodeError (Instr × State) :=
  match s.operation with
  | .ok i => .ok (i, s.afterEdge)
  | .error e => .error e

/-- `s` about to form the selector word `S`: the three state and three input fields of R55 are those of
`S`, the input ones in an edge presented before every edge that waits (log 7). -/
def State.present (s : State) (S : Selector) : State :=
  { s with
    decoder :=
      { s.decoder with
        lastMarkerByte := selLmb S
        syncState := SyncState.ofBit (selSync S)
        awaitingHighByte := selAhb S }
    inputs := { rst := selRst S, inValid := selValid S, inByte := selByte S } :: s.inputs }

end Sys2Proof.Machine
end

