-- ==== Sys2Proof/Machine/Step.lean ====
section
/-! DEFINITION. One step of the machine: one rising edge of `clk` (spec/40_onbyte.md R63), which
performs exactly one operation (R61). -/

namespace Sys2Proof.Machine

/-- Sample the next edge, select the operation, perform it. -/
def step (s : State) : Host.Outcome State Fault Refusal :=
  match fetch s with
  | .ok (i, s') => exec i s'
  | .error _ => .refused .noOperation

/-- `s` with the selector word `w` formed by the very next step (log 7). -/
def State.withFetchWord (s : State) (nbits w : Nat) : State :=
  s.present (BitVec.ofNat 20 (w % 2 ^ nbits))

end Sys2Proof.Machine
end

