-- ==== Sys2Proof/Machine/OnByte.lean ====
section
/-! DEFINITION. The normative step function of spec/40_onbyte.md R60 and its clocked port mapping R63,
transcribed from their pseudocode without the selector word and without the operations' meanings; its two
comparisons are those of the marker detector and of the range validator, on the constants of Config.
The machine does not run it: it is what `step` is claimed to refine. -/

namespace Sys2Proof.Machine

/-- R67, the pseudocode of SEEK_MARK. -/
def refSeekMark (d : DecoderState) : DecoderState × Event :=
  ({ d with syncState := .inFrame, lastMarkerByte := 0x00#8, awaitingHighByte := true }, none)

/-- R68, the pseudocode of SEEK_SHIFT. -/
def refSeekShift (d : DecoderState) (b : Byte) : DecoderState × Event :=
  ({ d with lastMarkerByte := b }, none)

/-- R72, the pseudocode of HIGH_ACCEPT. -/
def refHighAccept (d : DecoderState) (b : Byte) : DecoderState × Event :=
  ({ d with rawValue := b.setWidth 16 <<< 8, awaitingHighByte := false }, none)

/-- R73, the pseudocode of HIGH_REJECT. -/
def refHighReject (d : DecoderState) (b : Byte) : DecoderState × Event :=
  ({ d with
      rawValue := b.setWidth 16 <<< 8, awaitingHighByte := false, syncState := .seeking }, none)

/-- R74, the pseudocode of LOW. -/
def refLow (d : DecoderState) (b : Byte) : DecoderState × Event :=
  ({ d with
      rawValue := d.rawValue + b.setWidth 16
      syncState := .seeking
      lastEmittedValue := d.rawValue + b.setWidth 16 },
   if d.rawValue + b.setWidth 16 ≠ d.lastEmittedValue then some (d.rawValue + b.setWidth 16)
   else none)

/-- R60: `Step(s, rst, in_valid, b) -> (s', pub)`. -/
def refStep (d : DecoderState) (rst inValid : Bool) (b : Byte) : DecoderState × Event :=
  if rst = true then (DecoderState.reset, none)
  else if inValid = false then (d, none)
  else if d.syncState = .seeking then
    if isMarker d.lastMarkerByte b = true then refSeekMark d else refSeekShift d b
  else if d.awaitingHighByte = true then
    if validHigh b = true then refHighAccept d b else refHighReject d b
  else refLow d b

/-- R63: what one rising edge of `clk` with the inputs `e` does to the registers. -/
def refEdge (s : State) (e : InputEdge) : State :=
  let r := refStep s.decoder e.rst e.inValid e.inByte
  { s with
    decoder := r.1
    pubValid := if e.rst then false else r.2.isSome
    pubRaw := if e.rst then 0x0000#16 else r.2.getD s.pubRaw }

end Sys2Proof.Machine
end

