-- ==== Sys2Proof/Machine/HostSide.lean ====
section
/-! DEFINITION. The host of spec/60_exceptions.md R97: the byte source's moves, none of which presents a
byte while `rst = 1`, and what is left of its duties over a schedule of moves. The block itself has a
meaning for every edge (R62, R89, R100), so `step` samples edges, not moves. -/

namespace Sys2Proof.Machine

/-- R97: what the byte source may do at an edge. -/
inductive HostMove where
  /-- Present the byte `b`. -/
  | byte (b : Byte)
  /-- Hold `in_valid = 0`; `x` stands on `in_byte`, which is not sampled (R64). -/
  | idle (x : Byte)
  /-- Assert `rst` and present no byte; `x` stands on `in_byte`. -/
  | reset (x : Byte)
  deriving DecidableEq, Repr

/-- The edge at which the host makes the move. -/
def HostMove.edge : HostMove → InputEdge
  | .byte b => { rst := false, inValid := true, inByte := b }
  | .idle x => { rst := false, inValid := false, inByte := x }
  | .reset x => { rst := true, inValid := false, inByte := x }

/-- The byte a move presents. -/
def HostMove.byte? : HostMove → Option Byte
  | .byte b => some b
  | .idle _ => none
  | .reset _ => none

/-- Whether a move asserts `rst`. -/
def HostMove.isReset : HostMove → Bool
  | .byte _ => false
  | .idle _ => false
  | .reset _ => true

/-- The stream a schedule of moves presents. -/
def streamOf (ms : List HostMove) : List Byte := ms.filterMap HostMove.byte?

/-- R97, R102: no byte before the first edge with `rst = 1`. -/
def resetFirst : List HostMove → Bool
  | [] => true
  | .byte _ :: _ => false
  | .idle _ :: ms => resetFirst ms
  | .reset _ :: _ => true

/-- R97: a byte source at which `stream` arrived has kept its duties: it presented each byte of it once, in
arrival order, and asserted `rst` before the first. That it presented none during reset is in the moves. -/
abbrev SourceKeepsDuties (stream : List Byte) (ms : List HostMove) : Prop :=
  streamOf ms = stream ∧ resetFirst ms = true

/-- `s` with the byte source about to make the moves `ms`, and none after. -/
def State.hosted (s : State) (ms : List HostMove) : State :=
  { s with inputs := ms.map HostMove.edge }

end Sys2Proof.Machine
end

