-- ==== Sys2Proof/Safety.lean ====
section
/-! DEFINITION. What the claims are written in: the invariants of spec/10_state.md R28 to R31, the
host's duty, byte streams and frames (spec/30_encoding.md R49, R59), and what a run publishes. -/

namespace Sys2Proof.Safety

open Sys2Proof.Machine

/-- The invariants of a state no run from reset breaks: R28, R29, R30, R31, and what an event in the
output registers says of the rest (R63, R74: it was written by a LOW). -/
abbrev DecoderInv (s : State) : Prop :=
  (s.decoder.syncState = .seeking → s.decoder.awaitingHighByte = false) ∧
  (s.decoder.syncState = .inFrame → s.decoder.lastMarkerByte = 0x00#8) ∧
  (s.decoder.syncState = .inFrame → s.decoder.awaitingHighByte = false →
    s.decoder.rawValue = 0x0000#16 ∨ s.decoder.rawValue = 0x0100#16) ∧
  s.decoder.lastEmittedValue.toNat ≤ 511 ∧
  s.pubRaw.toNat ≤ 511 ∧
  (s.pubValid = true →
    s.decoder.syncState = .seeking ∧ s.decoder.lastMarkerByte = 0x00#8 ∧
    s.decoder.rawValue = s.pubRaw ∧ s.decoder.lastEmittedValue = s.pubRaw)

/-- R97: no byte is presented while `rst = 1`. The edges of `HostMove` are exactly those that meet this;
the block has a meaning for the others too (R100, log 3). -/
abbrev HostKeepsDuty (es : List InputEdge) : Prop :=
  ∀ e ∈ es, e.rst = true → e.inValid = false

/-- An edge that presents the byte `b`. -/
def byteEdge (b : Byte) : InputEdge := { rst := false, inValid := true, inByte := b }

/-- An edge that presents no byte; `x` stands on `in_byte` (R64). -/
def quietEdge (x : Byte) : InputEdge := { rst := false, inValid := false, inByte := x }

/-- R59 `RST`. -/
def resetEdge : InputEdge := { rst := true, inValid := false, inByte := 0x00#8 }

/-- R59: a byte list, one edge a byte. -/
def bytes (bs : List Byte) : List InputEdge := bs.map byteEdge

/-- The bytes a list of edges presents, in arrival order. -/
def presented (es : List InputEdge) : List Byte :=
  (es.filter (fun e => e.inValid)).map (fun e => e.inByte)

/-- R59 `FRAME(v) = [1, 1, v >> 8, v & 0xFF]`. -/
def frame (v : Word16) : List Byte :=
  [0x01#8, 0x01#8, (v >>> 8).setWidth 8, v.setWidth 8]

/-- R59 `BADFRAME(h) = [1, 1, h]`. -/
def badFrame (h : Byte) : List Byte := [0x01#8, 0x01#8, h]

/-- R83: control is in SEEK and no lone marker byte waits in the lookback. -/
abbrev CleanSeek (s : State) : Prop :=
  s.decoder.syncState = .seeking ∧ s.decoder.awaitingHighByte = false ∧
  s.decoder.lastMarkerByte ≠ 0x01#8

/-- `s` with the host about to present `es` and nothing after. -/
def given (s : State) (es : List InputEdge) : State := { s with inputs := es }

/-- The values the sink reads in the cycles after each of the next `n` edges, in order (R26, R97: it
samples every cycle). -/
def published : Nat → State → List Word16
  | 0, _ => []
  | n + 1, s =>
    match step s with
    | .next t => t.event.toList ++ published n t
    | .fault _ => []
    | .refused _ => []

/-- The bytes that the operations of the next `n` steps read, in order: those of every step but RESET and
NOP. -/
def taken : Nat → State → List Byte
  | 0, _ => []
  | n + 1, s =>
    match s.operation, step s with
    | .ok i, .next t =>
      (if i.op = .reset ∨ i.op = .nop then [] else [s.edge.inByte]) ++ taken n t
    | _, _ => []

/-- R97: what a sink receives that samples `pub_raw` in the cycles marked true only. There is no
backpressure, so what it does has no effect on the block. -/
def received : List Bool → State → List Word16
  | [], _ => []
  | sampled :: rest, s =>
    match step s with
    | .next t => (if sampled then t.event.toList else []) ++ received rest t
    | .fault _ => []
    | .refused _ => []

/-- R97, the sink's duty: it samples in every cycle with `pub_valid = 1`. -/
def SinkKeepsDuty : List Bool → State → Prop
  | [], _ => True
  | sampled :: rest, s =>
    match step s with
    | .next t => (t.pubValid = true → sampled = true) ∧ SinkKeepsDuty rest t
    | .fault _ => True
    | .refused _ => True

/-- R77, R78: which of a run of accepted values are published, when the latch holds `latch` before. -/
def changes : Word16 → List Word16 → List Word16
  | _, [] => []
  | latch, v :: vs => if v ≠ latch then v :: changes v vs else changes v vs

end Sys2Proof.Safety
end

