-- ==== Sys2Proof/Certificates/Slice0/Obligations.lean ====
section
/-! DEFINITION. The statements for the provers. Rules R<n> are those of spec/. Statements that name a
log entry rest on the model's own choice recorded in notes/assumptions/<n>.md. The host's duties of R97 are a
premise where a statement names them; every other statement holds for hosts that break them too (log 3). -/

open Sys2Proof Sys2Proof.Machine Sys2Proof.Safety

/-! ### The selector -/

/-- The words of spec/95_test_vectors.md section 2.1, written out from R55 and R57. -/
def Obligations.SelectorWordsDecodeAsTabulated : Prop :=
  decode 0x00000#20 = .ok .nop ∧ decode 0x7FBFF#20 = .ok .nop ∧
  decode 0x80000#20 = .ok .reset ∧ decode 0xFFFFF#20 = .ok .reset ∧
  decode 0x00C01#20 = .ok .seekMark ∧ decode 0x00D01#20 = .ok .seekMark ∧
  decode 0x00C00#20 = .ok (.seekShift 0x00#8) ∧ decode 0x04C01#20 = .ok (.seekShift 0x01#8) ∧
  decode 0x00401#20 = .ok (.seekShift 0x01#8) ∧
  decode 0x00700#20 = .ok (.highAccept 0x00#8) ∧ decode 0x00701#20 = .ok (.highAccept 0x01#8) ∧
  decode 0x00702#20 = .ok (.highReject 0x02#8) ∧ decode 0x007FF#20 = .ok (.highReject 0xFF#8) ∧
  decode 0x7FFFF#20 = .ok (.highReject 0xFF#8) ∧
  decode 0x00600#20 = .ok (.low 0x00#8) ∧ decode 0x006FF#20 = .ok (.low 0xFF#8)

/-- R55: the layout of the selector word. `rawValue` and `lastEmittedValue` take no part in it, and the
input byte takes none in the selection while `in_valid` is 0. -/
def Obligations.SelectorWordHasTheTabulatedLayout : Prop :=
  ∀ (d : DecoderState) (e : InputEdge),
    (selectorOf d e).getLsbD 19 = e.rst ∧
    (selectorOf d e).extractLsb' 11 8 = d.lastMarkerByte ∧
    (selectorOf d e).getLsbD 10 = e.inValid ∧
    (selectorOf d e).getLsbD 9 = decide (d.syncState = .inFrame) ∧
    (selectorOf d e).getLsbD 8 = d.awaitingHighByte ∧
    (selectorOf d e).extractLsb' 0 8 = e.inByte ∧
    (∀ raw lev, selectorOf { d with rawValue := raw, lastEmittedValue := lev } e = selectorOf d e) ∧
    (e.inValid = false →
      ∀ x, decode (selectorOf d { e with inByte := x }) = decode (selectorOf d e))

/-- R56: every selector word is decoded, by the first row of the table that matches it. -/
def Obligations.EverySelectorTakesItsFirstRow : Prop :=
  (∀ S : Selector, ∃ r ∈ opTable,
    S &&& r.mask = r.value ∧
    (∀ r' ∈ opTable, S &&& r'.mask = r'.value → r.prio ≤ r'.prio) ∧
    decode S = .ok (buildInstr r.op S) ∧ (buildInstr r.op S).op = r.op) ∧
  (∀ S : Selector, S.getLsbD 19 = true → decode S = .ok .reset) ∧
  (∀ S : Selector, S.getLsbD 19 = false → S.getLsbD 10 = false → decode S = .ok .nop) ∧
  (rowOf .seekMark).prio < (rowOf .seekShift).prio ∧
  (rowOf .highAccept).prio < (rowOf .highReject).prio

/-- R57, the column "condition in words", each as an equivalence. -/
def Obligations.EachRowHoldsExactlyOnItsCondition : Prop :=
  ∀ (S : Selector) (b : Byte),
    (decode S = .ok .reset ↔ selRst S = true) ∧
    (decode S = .ok .nop ↔ selRst S = false ∧ selValid S = false) ∧
    (decode S = .ok .seekMark ↔
      selRst S = false ∧ selValid S = true ∧ selSync S = false ∧
      selByte S = 0x01#8 ∧ selLmb S = 0x01#8) ∧
    (decode S = .ok (.seekShift b) ↔
      selRst S = false ∧ selValid S = true ∧ selSync S = false ∧ selByte S = b ∧
      ¬ (b = 0x01#8 ∧ selLmb S = 0x01#8)) ∧
    (decode S = .ok (.highAccept b) ↔
      selRst S = false ∧ selValid S = true ∧ selSync S = true ∧ selAhb S = true ∧
      selByte S = b ∧ b.toNat ≤ 1) ∧
    (decode S = .ok (.highReject b) ↔
      selRst S = false ∧ selValid S = true ∧ selSync S = true ∧ selAhb S = true ∧
      selByte S = b ∧ 2 ≤ b.toNat) ∧
    (decode S = .ok (.low b) ↔
      selRst S = false ∧ selValid S = true ∧ selSync S = true ∧ selAhb S = false ∧
      selByte S = b)

/-- R57: an encoded operation decodes to itself, whatever stands in the bits its row ignores. The
encoder with every ignored bit 0 is the model's choice (log 12). -/
def Obligations.DecodingAnEncodedOperationGivesItBack : Prop :=
  (∀ (i : Instr) (dc : Selector), i.wf = true → admits dc i = true →
    decode (encodeIn dc i) = .ok i) ∧
  (∀ i : Instr, i.wf = true → decode (encode i) = .ok i)

/-- R57: a selector word is the encoding of what it decodes to, in its own ignored bits, and what it
decodes to is well formed. -/
def Obligations.EncodingADecodedSelectorGivesItBack : Prop :=
  ∀ (S : Selector) (i : Instr), decode S = .ok i →
    i.wf = true ∧ admits S i = true ∧ encodeIn S i = S

/-- The host's placement of a word (log 7): the next step forms exactly that selector word and performs
its operation, on a state that differs only in the three fields the word holds. -/
def Obligations.APlacedWordIsTheNextSelector : Prop :=
  ∀ (s : State) (w : Nat), w < 2 ^ 20 →
    selectorOf (s.withFetchWord 24 w).decoder (s.withFetchWord 24 w).edge = BitVec.ofNat 20 w ∧
    (∀ i, decodeTableWord 24 w = some i →
      step (s.withFetchWord 24 w) =
        exec i { s with
          decoder := { s.decoder with
            lastMarkerByte := selLmb (BitVec.ofNat 20 w)
            syncState := if selSync (BitVec.ofNat 20 w) then .inFrame else .seeking
            awaitingHighByte := selAhb (BitVec.ofNat 20 w) } })

/-! ### The step -/

/-- R61, R63: a step samples one edge, and is the operation its selector word decodes to, performed on
the state with that edge gone. With no edge waiting it samples an idle one (log 1). -/
def Obligations.StepPerformsTheDecodedOperation : Prop :=
  (∀ (s : State) (e : InputEdge) (es : List InputEdge) (i : Instr), s.inputs = e :: es →
    decode (selectorOf s.decoder e) = .ok i → step s = exec i { s with inputs := es }) ∧
  (∀ (s : State) (i : Instr), s.inputs = [] →
    decode (selectorOf s.decoder idleEdge) = .ok i → step s = exec i s)

/-- R62: the step function is total: it never faults, blocks or refuses, in any state, reachable or
not, and for any input. -/
def Obligations.EveryStepAnswersANextState : Prop :=
  (∀ s : State, ∃ t, step s = .next t) ∧
  (∀ (n : Nat) (s : State), ∃ t, core.run n s = .next t)

/-- R60 and R63: the step by selector word is the normative step function and its clocked port mapping
(Machine/OnByte.lean), for every state and every edge. That a step with no edge waiting is one at an
edge with `in_valid = 0`, the second clause, is the model's choice (log 1). -/
def Obligations.StepRefinesTheNormativeStepFunction : Prop :=
  (∀ (s : State) (e : InputEdge) (es : List InputEdge), s.inputs = e :: es →
    step s = .next { refEdge s e with inputs := es }) ∧
  (∀ (s : State) (x : Byte), s.inputs = [] → step s = .next (refEdge s (quietEdge x)))

/-- R35, R41, R43: a step takes exactly one edge, and nothing behind it has any effect. -/
def Obligations.StepReadsOneEdgeAndNoneAhead : Prop :=
  ∀ (s : State) (e : InputEdge) (es es' : List InputEdge), ∃ t,
    step (given s (e :: es)) = .next t ∧ t.inputs = es ∧
    step (given s (e :: es')) = .next (given t es')

/-- R97, R61: while the host keeps its duty, each byte it presents is taken by an operation that reads a
byte: it is neither dropped by a RESET nor passed over by a NOP. -/
def Obligations.NoByteIsLostWhileTheHostKeepsItsDuty : Prop :=
  ∀ (s : State) (e : InputEdge) (es : List InputEdge), s.inputs = e :: es →
    HostKeepsDuty s.inputs → e.inValid = true →
    ∃ i, s.operation = .ok i ∧ i.op ∉ [Op.reset, Op.nop]

/-! ### The operations -/

/-- R98 RESET: its effect, when it is performed, and that repeating it changes nothing. -/
def Obligations.ResetPutsEveryRegisterInItsResetValue : Prop :=
  (∀ s : State, exec .reset s = .next
    { decoder :=
        { syncState := .seeking, awaitingHighByte := false, lastMarkerByte := 0x00#8,
          rawValue := 0x0000#16, lastEmittedValue := 0x0000#16 }
      pubValid := false
      pubRaw := 0x0000#16
      inputs := s.inputs }) ∧
  (∀ (s : State) (e : InputEdge) (es : List InputEdge), s.inputs = e :: es → e.rst = true →
    s.operation = .ok .reset ∧ step s = exec .reset { s with inputs := es }) ∧
  (∀ s t : State, exec .reset s = .next t → exec .reset t = .next t)

/-- R100, R89: at an edge with `rst = 1` the step does not depend on `in_valid` or `in_byte`; a byte
presented there is dropped. -/
def Obligations.ResetDropsAPresentedByte : Prop :=
  ∀ (s : State) (valid : Bool) (b : Byte) (es : List InputEdge),
    step (given s (⟨true, valid, b⟩ :: es)) = step (given s (resetEdge :: es)) ∧
    (given s (⟨true, valid, b⟩ :: es)).operation = .ok .reset

/-- R66 NOP: its effect, when it is performed, and that any number of them change nothing and publish
nothing. -/
def Obligations.NopChangesNoDecoderField : Prop :=
  (∀ s : State, exec .nop s = .next
    { decoder := s.decoder, pubValid := false, pubRaw := s.pubRaw, inputs := s.inputs }) ∧
  (∀ (s : State) (e : InputEdge) (es : List InputEdge), s.inputs = e :: es →
    e.rst = false → e.inValid = false →
    s.operation = .ok .nop ∧ step s = exec .nop { s with inputs := es }) ∧
  (∀ (s : State) (xs : List Byte) (es : List InputEdge), xs ≠ [] →
    core.run xs.length (given s (xs.map quietEdge ++ es)) =
      .next { decoder := s.decoder, pubValid := false, pubRaw := s.pubRaw, inputs := es } ∧
    published xs.length (given s (xs.map quietEdge ++ es)) = [])

/-- R67 SEEK_MARK: its effect, when it is performed, and that a third 0x01 is then the high byte. -/
def Obligations.SeekMarkOpensTheFrame : Prop :=
  (∀ s : State, exec .seekMark s = .next
    { decoder :=
        { syncState := .inFrame, awaitingHighByte := true, lastMarkerByte := 0x00#8,
          rawValue := s.decoder.rawValue, lastEmittedValue := s.decoder.lastEmittedValue }
      pubValid := false
      pubRaw := s.pubRaw
      inputs := s.inputs }) ∧
  (∀ (s : State) (es : List InputEdge), s.inputs = byteEdge 0x01#8 :: es →
    s.decoder.syncState = .seeking → s.decoder.lastMarkerByte = 0x01#8 →
    s.operation = .ok .seekMark ∧ step s = exec .seekMark { s with inputs := es }) ∧
  (∀ (s : State) (es : List InputEdge), s.inputs = byteEdge 0x01#8 :: byteEdge 0x01#8 :: es →
    s.decoder.syncState = .seeking → s.decoder.lastMarkerByte = 0x01#8 →
    ∃ t, step s = .next t ∧ t.operation = .ok (.highAccept 0x01#8))

/-- R68 SEEK_SHIFT: its effect, and when it is performed. -/
def Obligations.SeekShiftStoresTheLookback : Prop :=
  (∀ (s : State) (b : Byte), exec (.seekShift b) s = .next
    { decoder :=
        { syncState := s.decoder.syncState, awaitingHighByte := s.decoder.awaitingHighByte,
          lastMarkerByte := b,
          rawValue := s.decoder.rawValue, lastEmittedValue := s.decoder.lastEmittedValue }
      pubValid := false
      pubRaw := s.pubRaw
      inputs := s.inputs }) ∧
  (∀ (s : State) (b : Byte) (es : List InputEdge), s.inputs = byteEdge b :: es →
    s.decoder.syncState = .seeking → ¬ (b = 0x01#8 ∧ s.decoder.lastMarkerByte = 0x01#8) →
    s.operation = .ok (.seekShift b) ∧ step s = exec (.seekShift b) { s with inputs := es })

/-- R72 HIGH_ACCEPT: its effect, when it is performed, and the two values it can write. -/
def Obligations.HighAcceptTakesThePlausibleHighByte : Prop :=
  (∀ (s : State) (b : Byte), b.toNat ≤ 1 → exec (.highAccept b) s = .next
    { decoder :=
        { syncState := s.decoder.syncState, awaitingHighByte := false,
          lastMarkerByte := s.decoder.lastMarkerByte,
          rawValue := BitVec.ofNat 16 (256 * b.toNat),
          lastEmittedValue := s.decoder.lastEmittedValue }
      pubValid := false
      pubRaw := s.pubRaw
      inputs := s.inputs }) ∧
  (∀ (s : State) (b : Byte) (es : List InputEdge), s.inputs = byteEdge b :: es →
    s.decoder.syncState = .inFrame → s.decoder.awaitingHighByte = true → b.toNat ≤ 1 →
    s.operation = .ok (.highAccept b) ∧ step s = exec (.highAccept b) { s with inputs := es })

/-- R73 HIGH_REJECT: its effect, when it is performed, and that in a state no run breaks `[1, 1]` right
after it is a marker. -/
def Obligations.HighRejectAbandonsTheFrame : Prop :=
  (∀ (s : State) (b : Byte), 2 ≤ b.toNat → exec (.highReject b) s = .next
    { decoder :=
        { syncState := .seeking, awaitingHighByte := false,
          lastMarkerByte := s.decoder.lastMarkerByte,
          rawValue := BitVec.ofNat 16 (256 * b.toNat),
          lastEmittedValue := s.decoder.lastEmittedValue }
      pubValid := false
      pubRaw := s.pubRaw
      inputs := s.inputs }) ∧
  (∀ (s : State) (b : Byte) (es : List InputEdge), s.inputs = byteEdge b :: es →
    s.decoder.syncState = .inFrame → s.decoder.awaitingHighByte = true → 2 ≤ b.toNat →
    s.operation = .ok (.highReject b) ∧ step s = exec (.highReject b) { s with inputs := es }) ∧
  (∀ (s : State) (b : Byte) (es : List InputEdge), DecoderInv s →
    s.inputs = byteEdge b :: byteEdge 0x01#8 :: byteEdge 0x01#8 :: es →
    s.decoder.syncState = .inFrame → s.decoder.awaitingHighByte = true → 2 ≤ b.toNat →
    ∃ t, core.run 3 s = .next t ∧ t.decoder.control = .high ∧
      t.decoder.lastEmittedValue = s.decoder.lastEmittedValue)

/-- R74 LOW: its effect, when it is performed, and that the sum does not wrap in a state no run
breaks. -/
def Obligations.LowCompletesDeduplicatesAndPublishes : Prop :=
  (∀ (s : State) (b : Byte), exec (.low b) s = .next
    { decoder :=
        { syncState := .seeking, awaitingHighByte := s.decoder.awaitingHighByte,
          lastMarkerByte := s.decoder.lastMarkerByte,
          rawValue := s.decoder.rawValue + b.setWidth 16,
          lastEmittedValue := s.decoder.rawValue + b.setWidth 16 }
      pubValid := decide (s.decoder.rawValue + b.setWidth 16 ≠ s.decoder.lastEmittedValue)
      pubRaw :=
        if s.decoder.rawValue + b.setWidth 16 ≠ s.decoder.lastEmittedValue then
          s.decoder.rawValue + b.setWidth 16
        else s.pubRaw
      inputs := s.inputs }) ∧
  (∀ (s : State) (b : Byte) (es : List InputEdge), s.inputs = byteEdge b :: es →
    s.decoder.syncState = .inFrame → s.decoder.awaitingHighByte = false →
    s.operation = .ok (.low b) ∧ step s = exec (.low b) { s with inputs := es }) ∧
  (∀ (s : State) (b : Byte), DecoderInv s →
    s.decoder.syncState = .inFrame → s.decoder.awaitingHighByte = false →
    (s.decoder.rawValue + b.setWidth 16).toNat = s.decoder.rawValue.toNat + b.toNat ∧
    s.decoder.rawValue.toNat + b.toNat ≤ 511)

/-! ### Rules over all operations -/

/-- R14 (the column "written by" of its table), R15 to R21, R24: no operation writes a register that is
not its own to write, and none touches the edges still waiting. -/
def Obligations.OnlyTheListedOperationsWriteARegister : Prop :=
  ∀ (i : Instr) (s t : State), exec i s = .next t →
    (t.decoder.syncState ≠ s.decoder.syncState →
      i.op ∈ [Op.seekMark, Op.highReject, Op.low, Op.reset]) ∧
    (t.decoder.awaitingHighByte ≠ s.decoder.awaitingHighByte →
      i.op ∈ [Op.seekMark, Op.highAccept, Op.highReject, Op.reset]) ∧
    (t.decoder.lastMarkerByte ≠ s.decoder.lastMarkerByte →
      i.op ∈ [Op.seekMark, Op.seekShift, Op.reset]) ∧
    (t.decoder.rawValue ≠ s.decoder.rawValue →
      i.op ∈ [Op.highAccept, Op.highReject, Op.low, Op.reset]) ∧
    (t.decoder.lastEmittedValue ≠ s.decoder.lastEmittedValue → i.op ∈ [Op.low, Op.reset]) ∧
    (t.pubValid = true → i.op = Op.low) ∧
    (t.pubRaw ≠ s.pubRaw → i.op ∈ [Op.low, Op.reset]) ∧
    t.inputs = s.inputs

/-- R65: the control-state transitions, the whole of the block's control flow. -/
def Obligations.ControlFollowsTheTransitionTable : Prop :=
  ∀ s t : State, step s = .next t →
    (s.edge.rst = true → s.operation = .ok .reset ∧ t.decoder.control = .seek ∧ t.event = none) ∧
    (s.edge.rst = false → s.edge.inValid = false →
      s.operation = .ok .nop ∧ t.decoder.control = s.decoder.control ∧ t.event = none) ∧
    (s.edge.rst = false → s.edge.inValid = true → s.decoder.control = .seek →
      t.event = none ∧
      if s.edge.inByte = 0x01#8 ∧ s.decoder.lastMarkerByte = 0x01#8 then
        s.operation = .ok .seekMark ∧ t.decoder.control = .high
      else s.operation = .ok (.seekShift s.edge.inByte) ∧ t.decoder.control = .seek) ∧
    (s.edge.rst = false → s.edge.inValid = true → s.decoder.control = .high →
      t.event = none ∧
      if s.edge.inByte.toNat ≤ 1 then
        s.operation = .ok (.highAccept s.edge.inByte) ∧ t.decoder.control = .low
      else s.operation = .ok (.highReject s.edge.inByte) ∧ t.decoder.control = .seek) ∧
    (s.edge.rst = false → s.edge.inValid = true → s.decoder.control = .low →
      s.operation = .ok (.low s.edge.inByte) ∧ t.decoder.control = .seek ∧
      (t.event ≠ none ↔
        s.decoder.rawValue + s.edge.inByte.setWidth 16 ≠ s.decoder.lastEmittedValue))

/-- R69: a byte consumed in HIGH or LOW counts toward no marker and is not kept in the lookback. -/
def Obligations.PayloadBytesNeverReachTheLookback : Prop :=
  ∀ s t : State, step s = .next t → s.decoder.control ≠ .seek → s.edge.rst = false →
    s.operation ≠ .ok .seekMark ∧ (∀ b, s.operation ≠ .ok (.seekShift b)) ∧
    t.decoder.lastMarkerByte = s.decoder.lastMarkerByte

/-- R70: with only idle edges between them, a byte 0x01 is SEEK_MARK exactly when the last step that was
no NOP was a SEEK_SHIFT of 0x01. -/
def Obligations.AMarkerNeedsAJustShiftedOne : Prop :=
  ∀ (s t : State) (i : Instr) (e e' : InputEdge) (xs : List Byte) (es : List InputEdge),
    DecoderInv s → s.inputs = e :: (xs.map quietEdge ++ e' :: es) → s.operation = .ok i → i ≠ .nop →
    core.run (xs.length + 1) s = .next t →
    (t.operation = .ok .seekMark ↔
      i = .seekShift 0x01#8 ∧ e'.rst = false ∧ e'.inValid = true ∧ e'.inByte = 0x01#8)

/-- R77: the comparator publishes exactly in LOW and exactly when all 16 bits of the new value differ
from the latch in some bit; no other operation reads the latch. -/
def Obligations.OnlyLowPublishesAndReadsTheLatch : Prop :=
  (∀ s t : State, step s = .next t →
    (t.pubValid = true ↔ ∃ b, s.operation = .ok (.low b) ∧
      s.decoder.rawValue + b.setWidth 16 ≠ s.decoder.lastEmittedValue)) ∧
  (∀ (s t : State) (i : Instr) (w : Word16), i.op ≠ .low → exec i s = .next t →
    exec i { s with decoder := { s.decoder with lastEmittedValue := w } } =
      .next { t with decoder := { t.decoder with
        lastEmittedValue := if i.op = .reset then t.decoder.lastEmittedValue else w } }) ∧
  (∀ (s : State) (w : Word16),
    ({ s with decoder := { s.decoder with lastEmittedValue := w } } : State).operation =
      s.operation)

/-- R81, R63, R20, R21: an event is the new `rawValue` and at most 511; without one `pub_raw` keeps its
value but at a RESET. -/
def Obligations.AnEventCarriesTheAssembledValue : Prop :=
  ∀ s t : State, DecoderInv s → step s = .next t →
    (∀ v, t.event = some v →
      v = t.decoder.rawValue ∧ v = t.decoder.lastEmittedValue ∧ v ≠ s.decoder.lastEmittedValue ∧
      v.toNat ≤ 511) ∧
    (t.event = none → s.edge.rst = false → t.pubRaw = s.pubRaw)

/-! ### Invariants -/

/-- R98, R101: the machine after reset meets the invariant and holds the reset value of every register.
That no edge waits is the model's choice (log 1). -/
def Obligations.ResetMeetsTheInvariant : Prop :=
  DecoderInv State.reset ∧ CleanSeek State.reset ∧ State.reset.inputs = [] ∧
  State.reset.decoder.syncState = .seeking ∧ State.reset.decoder.awaitingHighByte = false ∧
  State.reset.decoder.lastMarkerByte = 0x00#8 ∧
  State.reset.decoder.rawValue = 0x0000#16 ∧ State.reset.decoder.lastEmittedValue = 0x0000#16 ∧
  State.reset.pubValid = false ∧ State.reset.pubRaw = 0x0000#16

/-- R28, R29, R30, R31: every step, from any state that meets the invariant, keeps it. -/
def Obligations.EveryStepKeepsTheInvariant : Prop :=
  ∀ s t : State, DecoderInv s → step s = .next t → DecoderInv t

/-- R31: the latch and every published value stay within 0..511, and `pub_raw[15:9]` is 0. -/
def Obligations.PublishedValuesFitNineBits : Prop :=
  ∀ s t : State, DecoderInv s → step s = .next t →
    t.decoder.lastEmittedValue.toNat ≤ 511 ∧ (∀ v, t.event = some v → v.toNat ≤ 511) ∧
    t.pubRaw.extractLsb' 9 7 = 0#7

/-! ### Payload and validator -/

/-- R52: two payload bytes are assembled to `{7'b0, h[0], l[7:0]}`, which is `256 * h + l`. -/
def Obligations.PayloadIsAssembledBigEndian : Prop :=
  ∀ (s : State) (h l : Byte) (es : List InputEdge), s.decoder.control = .high → h.toNat ≤ 1 →
    ∃ t, core.run 2 (given s (byteEdge h :: byteEdge l :: es)) = .next t ∧
      t.decoder.rawValue.toNat = 256 * h.toNat + l.toNat ∧ t.decoder.rawValue.toNat ≤ 511 ∧
      t.decoder.rawValue.extractLsb' 9 7 = 0#7 ∧
      t.decoder.rawValue.getLsbD 8 = h.getLsbD 0 ∧ t.decoder.rawValue.extractLsb' 0 8 = l

/-- R53: a value has an accepted frame, `[1, 1, v >> 8, v & 0xFF]`, exactly if it is at most 511. -/
def Obligations.ValuesUpTo511HaveAnAcceptedFrame : Prop :=
  (∀ (s : State) (v : Word16), CleanSeek s → v.toNat ≤ 511 →
    ∃ t, core.run 4 (given s (bytes (frame v))) = .next t ∧
      t.decoder.control = .seek ∧ t.decoder.rawValue = v ∧ t.decoder.lastEmittedValue = v) ∧
  (∀ (s : State) (v : Word16), CleanSeek s → 512 ≤ v.toNat →
    ∃ t, core.run 2 (given s (bytes (frame v))) = .next t ∧
      t.operation = .ok (.highReject ((v >>> 8).setWidth 8)))

/-- R71: in HIGH a byte is accepted exactly when `256 * b` is at most 256, that is when `b` is 0 or 1;
in LOW every byte is accepted. -/
def Obligations.OnlyTheHighByteIsRangeChecked : Prop :=
  ∀ (s : State) (b : Byte) (es : List InputEdge),
    (validHigh b = true ↔ 256 * b.toNat ≤ 256) ∧
    (s.decoder.control = .high →
      (256 * b.toNat ≤ 256 ↔ (given s (byteEdge b :: es)).operation = .ok (.highAccept b)) ∧
      (2 ≤ b.toNat ↔ (given s (byteEdge b :: es)).operation = .ok (.highReject b))) ∧
    (s.decoder.control = .low → (given s (byteEdge b :: es)).operation = .ok (.low b))

/-- R82: a published measurement is an exact tenth, `n / 10` with `n` at most 511, and 0 only where the
latch was not 0. The sink's number format is an argument (log 5). -/
def Obligations.MeasurementsAreExactTenths : Prop :=
  ∀ (s t : State) (v : Word16), DecoderInv s → step s = .next t → t.event = some v →
    (∃ n : Nat, n ≤ 511 ∧ v.toNat = n ∧ measurement v * 10 = (n : Rat) ∧
      ∀ (α : Type) (measFormat : Rat → α),
        measurementIn measFormat v = measFormat ((n : Rat) / 10)) ∧
    (measurement v = 0 → s.decoder.lastEmittedValue ≠ 0x0000#16)

/-! ### Streams -/

/-- R83, R78, R66: however idle edges stand among its bytes, an unbroken run of accepted frames from a
clean SEEK publishes exactly the values that differ from the one before, the first compared with the
latch; it leaves a clean SEEK and the last value in the latch. -/
def Obligations.AcceptedFramesPublishExactlyTheirChanges : Prop :=
  ∀ (s : State) (vs : List Word16) (es : List InputEdge), CleanSeek s →
    (∀ v ∈ vs, v.toNat ≤ 511) → (∀ e ∈ es, e.rst = false) →
    presented es = (vs.map frame).flatten →
    published es.length (given s es) = changes s.decoder.lastEmittedValue vs ∧
    ∃ t, core.run es.length (given s es) = .next t ∧ CleanSeek t ∧
      t.decoder.lastEmittedValue = vs.getLastD s.decoder.lastEmittedValue

/-- R79: while the latch holds the sentinel 0, frames of value 0 are not published, however many; the
first frame of another value is. -/
def Obligations.ZeroFramesBeforeAnyOtherAreSilent : Prop :=
  State.reset.decoder.lastEmittedValue = 0x0000#16 ∧
  ∀ (s : State) (k : Nat) (v : Word16), CleanSeek s →
    s.decoder.lastEmittedValue = 0x0000#16 → v.toNat ≤ 511 →
    published (4 * k + 4)
      (given s (bytes ((List.replicate k (frame 0x0000#16)).flatten ++ frame v))) =
      if v = 0x0000#16 then [] else [v]

/-- R80: a value that returns after another is published again. -/
def Obligations.AReturningValueIsPublishedAgain : Prop :=
  ∀ (s : State) (a b : Word16), CleanSeek s → a.toNat ≤ 511 → b.toNat ≤ 511 → a ≠ b →
    a ≠ s.decoder.lastEmittedValue →
    published 12 (given s (bytes (frame a ++ frame b ++ frame a))) = [a, b, a]

/-- R80: a rejected frame and noise between two equal accepted frames do not make the second one
published. Noise is any bytes that hold no marker and leave none half seen: no two 0x01 in a row, and no
0x01 last. -/
def Obligations.RejectedFramesAndNoiseKeepTheDedup : Prop :=
  ∀ (s : State) (a : Word16) (h : Byte) (noise : List Byte), CleanSeek s → a.toNat ≤ 511 →
    2 ≤ h.toNat → noise.IsChain (fun x y => ¬ (x = 0x01#8 ∧ y = 0x01#8)) →
    noise.getLast? ≠ some 0x01#8 →
    published (noise.length + 11)
      (given s (bytes (frame a ++ badFrame h ++ noise ++ frame a))) =
      if a = s.decoder.lastEmittedValue then [] else [a]

/-- R80, R98: a RESET clears the latch, so an equal value after it is published again, unless it is
0. -/
def Obligations.ResetMakesAnEqualValueNewAgain : Prop :=
  ∀ (s : State) (a : Word16), CleanSeek s → a.toNat ≤ 511 →
    published 9 (given s (bytes (frame a) ++ resetEdge :: bytes (frame a))) =
      (if a = s.decoder.lastEmittedValue then [] else [a]) ++ (if a = 0x0000#16 then [] else [a])

/-- R83 (its first exception), R40: a stray 0x01 before a frame makes the block read the frame one byte
early, so it publishes 256 plus the frame's high byte. -/
def Obligations.AStrayOneMisreadsTheNextFrame : Prop :=
  ∀ (s : State) (v : Word16), CleanSeek s →
    published 5 (given s (bytes (0x01#8 :: frame v))) =
      (if 0x0100#16 + (v >>> 8) = s.decoder.lastEmittedValue then [] else [0x0100#16 + (v >>> 8)]) ∧
    ∃ t, core.run 5 (given s (bytes (0x01#8 :: frame v))) = .next t ∧
      t.decoder.control = .seek ∧ t.decoder.lastMarkerByte = v.setWidth 8

/-- R105, R92: after any pause, a frame that follows a stream cut inside one is read as the rest of the
cut one. Cut in HIGH, its marker is the payload 257, and it ends in SEEK unless its payload 1, 1 is a marker
in turn. Cut in LOW, its first 0x01 is the low byte; a high byte of 1 then completes a marker with the
second 0x01, and it ends in LOW if the low byte passes as that frame's high byte. -/
def Obligations.ACutFrameSwallowsTheNext : Prop :=
  ∀ (s : State) (v : Word16) (xs : List Byte), s.decoder.lastMarkerByte = 0x00#8 →
    (s.decoder.control = .high →
      published (xs.length + 4) (given s (xs.map quietEdge ++ bytes (frame v))) =
        (if s.decoder.lastEmittedValue = 0x0101#16 then [] else [0x0101#16]) ∧
      ∃ t, core.run (xs.length + 4) (given s (xs.map quietEdge ++ bytes (frame v))) = .next t ∧
        t.decoder.lastEmittedValue = 0x0101#16 ∧
        t.decoder.control = if v = 0x0101#16 then .high else .seek) ∧
    (s.decoder.control = .low →
      published (xs.length + 4) (given s (xs.map quietEdge ++ bytes (frame v))) =
        (if s.decoder.rawValue + 0x0001#16 = s.decoder.lastEmittedValue then []
         else [s.decoder.rawValue + 0x0001#16]) ∧
      ∃ t, core.run (xs.length + 4) (given s (xs.map quietEdge ++ bytes (frame v))) = .next t ∧
        t.decoder.lastEmittedValue = s.decoder.rawValue + 0x0001#16 ∧
        t.decoder.control =
          if v = 0x0100#16 ∨ v = 0x0101#16 then .low else .seek)

/-- R104: two LOW steps are at least four edges apart, so an event stands for one cycle. -/
def Obligations.EventsAreFourEdgesApart : Prop :=
  ∀ (s t : State) (b : Byte), DecoderInv s → s.operation = .ok (.low b) → step s = .next t →
    (∀ k, k < 3 → ∀ u, core.run k t = .next u → ∀ b', u.operation ≠ .ok (.low b')) ∧
    published 3 t = []

/-! ### What cannot be seen -/

/-- R32: outside LOW no observation, however long, depends on the value `rawValue` holds. -/
def Obligations.TheStaleAccumulatorIsUnobservable : Prop :=
  ∀ (s : State) (raw : Word16) (n : Nat), s.decoder.control ≠ .low →
    published n { s with decoder := { s.decoder with rawValue := raw } } = published n s

/-- R64: the byte on `in_byte` while `in_valid` is 0 has no effect. -/
def Obligations.AnUnsampledByteHasNoEffect : Prop :=
  ∀ (s : State) (es es' : List InputEdge) (n : Nat),
    es.map (fun e => (e.rst, e.inValid, if e.inValid then e.inByte else 0x00#8)) =
      es'.map (fun e => (e.rst, e.inValid, if e.inValid then e.inByte else 0x00#8)) →
    published n (given s es) = published n (given s es') ∧
    ∃ t t', core.run n (given s es) = .next t ∧ core.run n (given s es') = .next t' ∧
      t.decoder = t'.decoder ∧ t.pubValid = t'.pubValid ∧ t.pubRaw = t'.pubRaw

/-- R66, R59, R92: idle edges anywhere in an input schedule, resets included in it, change neither what
is published nor the decoder it leaves. -/
def Obligations.IdleEdgesChangeNoOutcome : Prop :=
  ∀ (s : State) (es : List InputEdge),
    published es.length (given s es) =
      published (es.filter (fun e => e.rst || e.inValid)).length
        (given s (es.filter (fun e => e.rst || e.inValid))) ∧
    ∃ t t', core.run es.length (given s es) = .next t ∧
      core.run (es.filter (fun e => e.rst || e.inValid)).length
        (given s (es.filter (fun e => e.rst || e.inValid))) = .next t' ∧
      t.decoder = t'.decoder ∧ t.pubRaw = t'.pubRaw

/-! ### The host -/

/-- R97: the edges of the byte source's moves are exactly those that keep its duty during reset, and what
each move has the block perform. -/
def Obligations.HostMovesAreTheEdgesThatKeepTheDuty : Prop :=
  (∀ es : List InputEdge, HostKeepsDuty es ↔ ∃ ms : List HostMove, es = ms.map HostMove.edge) ∧
  ∀ (s : State) (m : HostMove) (ms : List HostMove), ∃ i, (s.hosted (m :: ms)).operation = .ok i ∧
    step (s.hosted (m :: ms)) = exec i (s.hosted ms) ∧
    (i = .reset ↔ m.isReset = true) ∧
    (i = .nop ↔ m.byte? = none ∧ m.isReset = false)

/-- R97, R43: of a byte source that keeps its duties, from any state, the block reads each byte that
arrived, once and in order; after `n` edges, those presented so far. -/
def Obligations.EachByteOfTheStreamIsTakenOnceInOrder : Prop :=
  ∀ (s : State) (stream : List Byte) (ms : List HostMove), SourceKeepsDuties stream ms →
    taken ms.length (s.hosted ms) = stream ∧
    ∀ n, taken n (s.hosted ms) = streamOf (ms.take n)

/-- R97, R102, R101, R98: with a byte source that keeps its duties, nothing published depends on the state
before the first RESET, and nothing at all does after it. -/
def Obligations.TheStateBeforeResetIsUnobservable : Prop :=
  ∀ (s s' : State) (stream : List Byte) (ms : List HostMove) (n : Nat), SourceKeepsDuties stream ms →
    published n (s.hosted ms) = published n (s'.hosted ms) ∧
    ((∃ x, .reset x ∈ ms.take n) → core.run n (s.hosted ms) = core.run n (s'.hosted ms))

/-- R97, the row 'publish out': from any state, an event is shown for one cycle, and unless `rst` comes the
next value shown after it is another; so a sink that misses that cycle, and samples every one after it, does
not next receive the value it missed. Whatever a sink samples, it receives some of the events, in order, and
all of them exactly if it samples every cycle with `pub_valid = 1`. -/
def Obligations.AnEventNotSampledInItsCycleIsLost : Prop :=
  (∀ (s t : State) (v : Word16), step s = .next t → t.event = some v →
    (∃ u, step t = .next u ∧ u.pubValid = false ∧ u.event = none) ∧
    ((∀ e ∈ t.inputs, e.rst = false) →
      ∀ n, (published n t).head? ≠ some v ∧
        (received (false :: List.replicate n true) s).head? ≠ some v)) ∧
  ∀ (s : State) (samples : List Bool),
    (received samples s).Sublist (published samples.length s) ∧
    (received samples s = published samples.length s ↔ SinkKeepsDuty samples s)

/-- R97, R83, R102: where both sides keep their duties, from any state: after a RESET, with idle edges
anywhere, accepted frames make the sink receive exactly the values that differ from the one before, the
first compared with 0. -/
def Obligations.HostsThatKeepTheirDutiesReceiveExactlyTheChanges : Prop :=
  ∀ (s : State) (vs : List Word16) (boot rest : List HostMove) (samples : List Bool),
    SourceKeepsDuties (vs.map frame).flatten (boot ++ rest) → (∀ v ∈ vs, v.toNat ≤ 511) →
    streamOf boot = [] → (∃ m ∈ boot, m.isReset = true) → (∀ m ∈ rest, m.isReset = false) →
    samples.length = boot.length + rest.length → SinkKeepsDuty samples (s.hosted (boot ++ rest)) →
    received samples (s.hosted (boot ++ rest)) = changes 0x0000#16 vs
end

