-- ==== Sys2Proof/Laws/HostSide.lean ====
section
/-! SUPPORT. The small lemmas of the byte source's moves: their edges, and a state with a schedule of
them before it. -/

namespace Sys2Proof.Laws

open Sys2Proof.Machine Sys2Proof.Safety

variable (s : State) (m : HostMove) (ms : List HostMove)

@[simp] theorem edge_rst : m.edge.rst = m.isReset := by cases m <;> rfl

@[simp] theorem edge_inValid : m.edge.inValid = m.byte?.isSome := by cases m <;> rfl

/-- No move presents a byte while `rst = 1` (R97). -/
theorem edge_keeps_duty (h : m.edge.rst = true) : m.edge.inValid = false := by
  cases m <;> first | rfl | cases h

@[simp] theorem streamOf_cons : streamOf (m :: ms) = m.byte?.toList ++ streamOf ms := by
  cases m <;> rfl

/-- The stream of a schedule of moves is what its edges present. -/
theorem presented_edges : presented (ms.map HostMove.edge) = streamOf ms := by
  induction ms with
  | nil => rfl
  | cons m ms ih =>
    cases m <;> simp_all [presented, streamOf, HostMove.edge, HostMove.byte?, List.filterMap_cons]

theorem hosted_eq_given : s.hosted ms = given s (ms.map HostMove.edge) := rfl

@[simp] theorem hosted_decoder : (s.hosted ms).decoder = s.decoder := rfl

@[simp] theorem hosted_pubValid : (s.hosted ms).pubValid = s.pubValid := rfl

@[simp] theorem hosted_pubRaw : (s.hosted ms).pubRaw = s.pubRaw := rfl

@[simp] theorem hosted_inputs : (s.hosted ms).inputs = ms.map HostMove.edge := rfl

@[simp] theorem hosted_cons_edge : (s.hosted (m :: ms)).edge = m.edge := rfl

@[simp] theorem hosted_cons_afterEdge : (s.hosted (m :: ms)).afterEdge = s.hosted ms := rfl

end Sys2Proof.Laws
end

