-- ==== Sys2Proof/Laws/State.lean ====
section
/-! SUPPORT. One lemma per field per update: the field writes of Machine/Ops.lean, and the two state
updates of Machine/Fetch.lean. -/

namespace Sys2Proof.Laws

open Sys2Proof.Machine

variable (d : DecoderState) (s : State)

/-! ### setSync -/

@[simp] theorem setSync_syncState (v : SyncState) : (d.setSync v).syncState = v := rfl

@[simp] theorem setSync_awaitingHighByte (v : SyncState) : (d.setSync v).awaitingHighByte = d.awaitingHighByte := rfl

@[simp] theorem setSync_lastMarkerByte (v : SyncState) : (d.setSync v).lastMarkerByte = d.lastMarkerByte := rfl

@[simp] theorem setSync_rawValue (v : SyncState) : (d.setSync v).rawValue = d.rawValue := rfl

@[simp] theorem setSync_lastEmittedValue (v : SyncState) : (d.setSync v).lastEmittedValue = d.lastEmittedValue := rfl

/-! ### setAwaiting -/

@[simp] theorem setAwaiting_syncState (v : Bool) : (d.setAwaiting v).syncState = d.syncState := rfl

@[simp] theorem setAwaiting_awaitingHighByte (v : Bool) : (d.setAwaiting v).awaitingHighByte = v := rfl

@[simp] theorem setAwaiting_lastMarkerByte (v : Bool) : (d.setAwaiting v).lastMarkerByte = d.lastMarkerByte := rfl

@[simp] theorem setAwaiting_rawValue (v : Bool) : (d.setAwaiting v).rawValue = d.rawValue := rfl

@[simp] theorem setAwaiting_lastEmittedValue (v : Bool) : (d.setAwaiting v).lastEmittedValue = d.lastEmittedValue := rfl

/-! ### setLookback -/

@[simp] theorem setLookback_syncState (v : Byte) : (d.setLookback v).syncState = d.syncState := rfl

@[simp] theorem setLookback_awaitingHighByte (v : Byte) : (d.setLookback v).awaitingHighByte = d.awaitingHighByte := rfl

@[simp] theorem setLookback_lastMarkerByte (v : Byte) : (d.setLookback v).lastMarkerByte = v := rfl

@[simp] theorem setLookback_rawValue (v : Byte) : (d.setLookback v).rawValue = d.rawValue := rfl

@[simp] theorem setLookback_lastEmittedValue (v : Byte) : (d.setLookback v).lastEmittedValue = d.lastEmittedValue := rfl

/-! ### setRaw -/

@[simp] theorem setRaw_syncState (v : Word16) : (d.setRaw v).syncState = d.syncState := rfl

@[simp] theorem setRaw_awaitingHighByte (v : Word16) : (d.setRaw v).awaitingHighByte = d.awaitingHighByte := rfl

@[simp] theorem setRaw_lastMarkerByte (v : Word16) : (d.setRaw v).lastMarkerByte = d.lastMarkerByte := rfl

@[simp] theorem setRaw_rawValue (v : Word16) : (d.setRaw v).rawValue = v := rfl

@[simp] theorem setRaw_lastEmittedValue (v : Word16) : (d.setRaw v).lastEmittedValue = d.lastEmittedValue := rfl

/-! ### setLatch -/

@[simp] theorem setLatch_syncState (v : Word16) : (d.setLatch v).syncState = d.syncState := rfl

@[simp] theorem setLatch_awaitingHighByte (v : Word16) : (d.setLatch v).awaitingHighByte = d.awaitingHighByte := rfl

@[simp] theorem setLatch_lastMarkerByte (v : Word16) : (d.setLatch v).lastMarkerByte = d.lastMarkerByte := rfl

@[simp] theorem setLatch_rawValue (v : Word16) : (d.setLatch v).rawValue = d.rawValue := rfl

@[simp] theorem setLatch_lastEmittedValue (v : Word16) : (d.setLatch v).lastEmittedValue = v := rfl

/-! ### afterEdge -/

@[simp] theorem afterEdge_decoder : s.afterEdge.decoder = s.decoder := rfl

@[simp] theorem afterEdge_pubValid : s.afterEdge.pubValid = s.pubValid := rfl

@[simp] theorem afterEdge_pubRaw : s.afterEdge.pubRaw = s.pubRaw := rfl

@[simp] theorem afterEdge_inputs : s.afterEdge.inputs = s.inputs.tail := rfl

/-! ### present -/

@[simp] theorem present_pubValid (S : Selector) : (s.present S).pubValid = s.pubValid := rfl

@[simp] theorem present_pubRaw (S : Selector) : (s.present S).pubRaw = s.pubRaw := rfl

@[simp] theorem present_inputs (S : Selector) :
    (s.present S).inputs = ⟨selRst S, selValid S, selByte S⟩ :: s.inputs := rfl

@[simp] theorem present_lastMarkerByte (S : Selector) :
    (s.present S).decoder.lastMarkerByte = selLmb S := rfl

@[simp] theorem present_syncState (S : Selector) :
    (s.present S).decoder.syncState = SyncState.ofBit (selSync S) := rfl

@[simp] theorem present_awaitingHighByte (S : Selector) :
    (s.present S).decoder.awaitingHighByte = selAhb S := rfl

@[simp] theorem present_rawValue (S : Selector) :
    (s.present S).decoder.rawValue = s.decoder.rawValue := rfl

@[simp] theorem present_lastEmittedValue (S : Selector) :
    (s.present S).decoder.lastEmittedValue = s.decoder.lastEmittedValue := rfl

end Sys2Proof.Laws
end

