-- ==== Sys2Proof/Laws/Ops.lean ====
section
/-! SUPPORT. One spec lemma per shared operation: everything it can do, said once. -/

namespace Sys2Proof.Laws

open Sys2Proof.Machine

/-- R63: the clock edge of a step that is no RESET. -/
theorem clockEdge_eq (s : State) (d : DecoderState) (pub : Event) :
    clockEdge s d pub =
      .next { s with decoder := d, pubValid := pub.isSome, pubRaw := pub.getD s.pubRaw } := by
  cases pub <;> rfl

/-- R63: the clock edge of a RESET. -/
theorem clockReset_eq (s : State) (d : DecoderState) :
    clockReset s d = .next { s with decoder := d, pubValid := false, pubRaw := 0#16 } := rfl

/-- R67: the fields `openFrame` leaves. -/
theorem openFrame_eq (d : DecoderState) :
    d.openFrame =
      ⟨.inFrame, true, 0#8, d.rawValue, d.lastEmittedValue⟩ := rfl

/-- R77: the comparator answers an event exactly when the values differ. -/
theorem dedupEvent_isSome (raw latch : Word16) :
    (dedupEvent raw latch).isSome = true ↔ raw ≠ latch := by
  by_cases h : raw = latch <;> simp [dedupEvent, h]

/-- R81: an event carries the new value. -/
theorem dedupEvent_eq_some (raw latch v : Word16) :
    dedupEvent raw latch = some v ↔ raw ≠ latch ∧ v = raw := by
  by_cases h : raw = latch
  · simp [dedupEvent, h]
  · simp [dedupEvent, h, eq_comm]

/-- R52, R76: `b << 8` in 16 bits is `256 * b`, for every byte. -/
theorem highPart_toNat (b : Byte) : (highPart b).toNat = 256 * b.toNat := by
  revert b
  decide

/-- R74: the sum does not wrap when `rawValue` is at most 256. -/
theorem addLow_toNat (raw : Word16) (b : Byte) (h : raw.toNat ≤ 256) :
    (addLow raw b).toNat = raw.toNat + b.toNat := by
  have hb : b.toNat < 256 := b.isLt
  simp [addLow, zext16, BitVec.toNat_add]
  omega

/-- R23: control is in SEEK exactly while `syncState` is Seeking. -/
theorem control_seek (d : DecoderState) : d.control = .seek ↔ d.syncState = .seeking := by
  cases d with
  | mk y a l r v => cases y <;> cases a <;> simp [DecoderState.control]

/-- What `fetch` answers when the selector word decodes. -/
theorem fetch_ok (s : State) (i : Instr) (h : s.operation = .ok i) :
    fetch s = .ok (i, s.afterEdge) := by
  simp [fetch, h]

@[simp] theorem edge_cons (s : State) (e : InputEdge) (es : List InputEdge)
    (h : s.inputs = e :: es) : s.edge = e := by
  simp [State.edge, h]

end Sys2Proof.Laws
end

