-- ==== Sys2Proof/Laws/Selector.lean ====
section
/-! SUPPORT. The decoder's spec lemmas: when each row of spec/30_encoding.md R57 matches, in terms of
the fields of R55; the fields of the selector word a step forms. -/

namespace Sys2Proof.Laws

open Sys2Proof.Machine

theorem eq_iff_bits {n : Nat} (x y : BitVec n) :
    x = y ↔ ∀ i, i < n → x.getLsbD i = y.getLsbD i :=
  ⟨fun h _ _ => h ▸ rfl, fun h => BitVec.eq_of_getLsbD_eq h⟩

/-! ### When a row matches -/

theorem hits_reset (S : Selector) : (rowOf .reset).hits S = selRst S := by
  rw [Bool.eq_iff_iff]
  simp only [Row.hits, rowOf, beq_iff_eq, eq_iff_bits, Nat.forall_lt_succ_right, selRst]
  simp

theorem hits_nop (S : Selector) : (rowOf .nop).hits S = (!selRst S && !selValid S) := by
  rw [Bool.eq_iff_iff]
  simp only [Row.hits, rowOf, beq_iff_eq, eq_iff_bits, Nat.forall_lt_succ_right, selRst, selValid]
  simp [and_comm]

theorem hits_seekMark (S : Selector) :
    (rowOf .seekMark).hits S =
      (!selRst S && selValid S && !selSync S && (selByte S == 1#8 && selLmb S == 1#8)) := by
  rw [Bool.eq_iff_iff]
  simp only [Row.hits, rowOf, beq_iff_eq, Bool.and_eq_true, eq_iff_bits, Nat.forall_lt_succ_right,
    selRst, selValid, selSync, selByte, selLmb]
  simp
  tauto

theorem hits_seekShift (S : Selector) :
    (rowOf .seekShift).hits S = (!selRst S && selValid S && !selSync S) := by
  rw [Bool.eq_iff_iff]
  simp only [Row.hits, rowOf, beq_iff_eq, eq_iff_bits, Nat.forall_lt_succ_right, selRst, selValid,
    selSync]
  simp
  tauto

theorem byte_le_one_iff (b : Byte) : b.toNat ≤ 1 ↔ ∀ i, i < 8 → 1 ≤ i → b.getLsbD i = false := by
  revert b
  decide

theorem hits_highAccept (S : Selector) :
    (rowOf .highAccept).hits S =
      (!selRst S && selValid S && selSync S && selAhb S && decide ((selByte S).toNat ≤ 1)) := by
  rw [Bool.eq_iff_iff]
  simp only [Row.hits, rowOf, beq_iff_eq, Bool.and_eq_true, decide_eq_true_eq, byte_le_one_iff,
    eq_iff_bits, Nat.forall_lt_succ_right, selRst, selValid, selSync, selAhb, selByte]
  simp
  tauto

theorem hits_highReject (S : Selector) :
    (rowOf .highReject).hits S = (!selRst S && selValid S && selSync S && selAhb S) := by
  rw [Bool.eq_iff_iff]
  simp only [Row.hits, rowOf, beq_iff_eq, eq_iff_bits, Nat.forall_lt_succ_right, selRst, selValid,
    selSync, selAhb]
  simp
  tauto

theorem hits_low (S : Selector) :
    (rowOf .low).hits S = (!selRst S && selValid S && selSync S && !selAhb S) := by
  rw [Bool.eq_iff_iff]
  simp only [Row.hits, rowOf, beq_iff_eq, eq_iff_bits, Nat.forall_lt_succ_right, selRst, selValid,
    selSync, selAhb]
  simp
  tauto

/-! ### The fields of the selector word of a step -/

/-- R55 bit by bit: the fields from S[7:0] up. -/
theorem getLsbD_selectorOf (d : DecoderState) (e : InputEdge) (i : Nat) :
    (selectorOf d e).getLsbD i =
      if i < 8 then e.inByte.getLsbD i
      else if i - 8 < 1 then (BitVec.ofBool d.awaitingHighByte).getLsbD (i - 8)
      else if i - 8 - 1 < 1 then (BitVec.ofBool d.syncState.bit).getLsbD (i - 8 - 1)
      else if i - 8 - 1 - 1 < 1 then (BitVec.ofBool e.inValid).getLsbD (i - 8 - 1 - 1)
      else if i - 8 - 1 - 1 - 1 < 8 then d.lastMarkerByte.getLsbD (i - 8 - 1 - 1 - 1)
      else (BitVec.ofBool e.rst).getLsbD (i - 8 - 1 - 1 - 1 - 8) := by
  change BitVec.getLsbD (w := 1 + 8 + 1 + 1 + 1 + 8) _ i = _
  simp only [selectorOf, BitVec.getLsbD_append]

@[simp] theorem selRst_selectorOf (d : DecoderState) (e : InputEdge) :
    selRst (selectorOf d e) = e.rst := by
  simp [selRst, -BitVec.getLsbD_eq_getElem, getLsbD_selectorOf]

@[simp] theorem selValid_selectorOf (d : DecoderState) (e : InputEdge) :
    selValid (selectorOf d e) = e.inValid := by
  simp [selValid, -BitVec.getLsbD_eq_getElem, getLsbD_selectorOf]

@[simp] theorem selSync_selectorOf (d : DecoderState) (e : InputEdge) :
    selSync (selectorOf d e) = d.syncState.bit := by
  simp [selSync, -BitVec.getLsbD_eq_getElem, getLsbD_selectorOf]

@[simp] theorem selAhb_selectorOf (d : DecoderState) (e : InputEdge) :
    selAhb (selectorOf d e) = d.awaitingHighByte := by
  simp [selAhb, -BitVec.getLsbD_eq_getElem, getLsbD_selectorOf]

@[simp] theorem selByte_selectorOf (d : DecoderState) (e : InputEdge) :
    selByte (selectorOf d e) = e.inByte := by
  rw [eq_iff_bits]
  intro i hi
  simp [selByte, -BitVec.getLsbD_eq_getElem, getLsbD_selectorOf, hi]

@[simp] theorem selLmb_selectorOf (d : DecoderState) (e : InputEdge) :
    selLmb (selectorOf d e) = d.lastMarkerByte := by
  rw [eq_iff_bits]
  intro i hi
  have h : 11 + i - 8 - 1 - 1 - 1 = i := by omega
  rw [selLmb, BitVec.getLsbD_extractLsb', getLsbD_selectorOf, h]
  simp only [hi, decide_true, Bool.true_and, if_true]
  rw [if_neg (by omega), if_neg (by omega), if_neg (by omega), if_neg (by omega)]

/-! ### The bits of an encoded word -/

/-- The byte an operation carries; 0x00 where it carries none. -/
def operandByte : Instr → Byte
  | .reset => 0#8
  | .nop => 0#8
  | .seekMark => 0#8
  | .seekShift b => b
  | .highAccept b => b
  | .highReject b => b
  | .low b => b

theorem operandBits_eq (i : Instr) : operandBits i = (operandByte i).setWidth 20 := by
  cases i <;> rfl

theorem getLsbD_encodeIn (dc : Selector) (i : Instr) (j : Nat) :
    (encodeIn dc i).getLsbD j =
      ((rowOf i.op).value.getLsbD j || (operandByte i).getLsbD j ||
        (dc.getLsbD j && (ignoredMask i.op).getLsbD j)) := by
  rw [encodeIn, operandBits_eq]
  simp only [BitVec.getLsbD_or, BitVec.getLsbD_and, BitVec.getLsbD_setWidth]
  by_cases hj : j < 20
  · simp [hj]
  · have h : (operandByte i).getLsbD j = false := BitVec.getLsbD_of_ge _ _ (by omega)
    simp [h]

/-- Above bit 7 an encoded word holds what its row fixes and the ignored bits. -/
theorem getLsbD_encodeIn_high (dc : Selector) (i : Instr) (j : Nat) (hj : 8 ≤ j) :
    (encodeIn dc i).getLsbD j =
      ((rowOf i.op).value.getLsbD j || (dc.getLsbD j && (ignoredMask i.op).getLsbD j)) := by
  rw [getLsbD_encodeIn, BitVec.getLsbD_of_ge (operandByte i) j hj, Bool.or_false]

theorem operand_rows_leave_the_byte_free (o : Op) :
    ∀ j, j < 8 → operandMask o ≠ 0#20 →
      (rowOf o).value.getLsbD j = false ∧ (ignoredMask o).getLsbD j = false := by
  cases o <;> decide

/-- An encoded word holds its operand's byte at `S[7:0]`. -/
theorem selByte_encodeIn (dc : Selector) (i : Instr) (h : operandMask i.op ≠ 0#20) :
    selByte (encodeIn dc i) = operandByte i := by
  rw [eq_iff_bits]
  intro j hj
  have k := operand_rows_leave_the_byte_free i.op j hj h
  rw [selByte, BitVec.getLsbD_extractLsb', Nat.zero_add, getLsbD_encodeIn, k.1, k.2]
  simp [hj]

/-! ### The bits of `syncState` (R15) -/

@[simp] theorem bit_ofBit (b : Bool) : (SyncState.ofBit b).bit = b := by
  cases b <;> rfl

@[simp] theorem ofBit_bit (v : SyncState) : SyncState.ofBit v.bit = v := by
  cases v <;> rfl

/-! ### The range validator (R71) -/

theorem validHigh_iff (b : Byte) : validHigh b = true ↔ b.toNat ≤ 1 := by
  revert b
  decide

/-! ### The marker comparison (R67) -/

theorem isMarker_iff (l b : Byte) : isMarker l b = true ↔ b = 0x01#8 ∧ l = 0x01#8 := by
  simp [isMarker, Config.MARKER]

end Sys2Proof.Laws
end

