-- ==== Sys2Proof/Laws/PerInstr.lean ====
section
/-! SUPPORT. The family EncodeHitsRow: the encoded word of a well-formed operation matches the row of
spec/30_encoding.md R57 it is written in. -/

namespace Sys2Proof.Laws.EncodeHitsRow

/-- R56: `(encode i & mask) == match`, for the row of `i`. -/
def Statement (i : Instr) : Prop := i.wf = true → (rowOf i.op).hits (encode i) = true

theorem reset : Statement .reset := by unfold Statement; decide

theorem nop : Statement .nop := by unfold Statement; decide

theorem seekMark : Statement .seekMark := by unfold Statement; decide

theorem seekShift (b : Byte) : Statement (.seekShift b) := by
  revert b
  unfold Statement
  decide

theorem highAccept (b : Byte) : Statement (.highAccept b) := by
  revert b
  unfold Statement
  decide

theorem highReject (b : Byte) : Statement (.highReject b) := by
  revert b
  unfold Statement
  decide

theorem low (b : Byte) : Statement (.low b) := by
  revert b
  unfold Statement
  decide

end Sys2Proof.Laws.EncodeHitsRow
end

