-- ==== Sys2Proof/Tests/Slice0.lean ====
section
/-! SUPPORT. Tests of the model's own author: ill-formed operations the check refuses, words written out
from the spec's encodings, one step each from the vectors of spec/95_test_vectors.md, and for every
statement with hypotheses states and operands that meet them. -/

namespace Sys2Proof.Tests

open Sys2Proof.Machine Sys2Proof.Safety

/-! ### WellFormed (R72, R73) -/

theorem test_wf_refuses_accepting_two : Instr.wf (.highAccept 0x02#8) = false := by decide

theorem test_wf_refuses_rejecting_one : Instr.wf (.highReject 0x01#8) = false := by decide

theorem test_wf_admits_the_boundaries :
    Instr.wf (.highAccept 0x01#8) = true ∧ Instr.wf (.highReject 0x02#8) = true := by decide

/-! ### Words from R55 and R57, bit by bit (spec/95_test_vectors.md 2.1), and a refused number -/

theorem test_decode_reset : decode 0b10000000000000000000#20 = .ok .reset := by decide

theorem test_decode_nop : decode 0b01111111101111111111#20 = .ok .nop := by decide

theorem test_decode_seekMark : decode 0b00000000110000000001#20 = .ok .seekMark := by decide

theorem test_decode_seekShift : decode 0b00000100110000000001#20 = .ok (.seekShift 1#8) := by decide

theorem test_decode_highAccept : decode 0b00000000011100000001#20 = .ok (.highAccept 1#8) := by decide

theorem test_decode_highReject :
    decode 0b00000000011110000000#20 = .ok (.highReject 128#8) := by decide

theorem test_decode_low : decode 0b00000000011011001000#20 = .ok (.low 200#8) := by decide

theorem test_no_selector_above_bit_19 :
    decodeNat 0x100000 = .error .beyondSelector ∧ decodeTableWord 24 0x100000 = none := by decide

theorem test_table_words :
    decodeTableWord 24 0x80000 = some .reset ∧ decodeTableWord 24 0x00000 = some .nop ∧
    decodeTableWord 24 0x00C01 = some .seekMark ∧ decodeTableWord 24 0x00400 = some (.seekShift 0#8) ∧
    decodeTableWord 24 0x00700 = some (.highAccept 0#8) ∧
    decodeTableWord 24 0x00702 = some (.highReject 2#8) ∧
    decodeTableWord 24 0x00600 = some (.low 0#8) := by decide

/-! ### One step each -/

/-- A state with no event in its output registers, about to sample `es`. -/
def st (y : SyncState) (a : Bool) (l : Byte) (r v : Word16) (es : List InputEdge) : State :=
  { decoder := ⟨y, a, l, r, v⟩, pubValid := false, pubRaw := 0#16, inputs := es }

/-- The next state of an outcome. -/
def nextOf : Host.Outcome State Fault Refusal → Option State
  | .next t => some t
  | .fault _ => none
  | .refused _ => none

/-- What a step leaves: the decoder and the two output registers. -/
def left (s : State) : Option (DecoderState × Bool × Word16) :=
  (nextOf (step s)).map (fun t => (t.decoder, t.pubValid, t.pubRaw))

/-- V-RST-2. -/
theorem test_reset_clears_all :
    left { st .inFrame false 0#8 0x0100#16 150#16 [resetEdge] with pubValid := true, pubRaw := 150#16 }
      = some (⟨.seeking, false, 0#8, 0#16, 0#16⟩, false, 0#16) := by decide

/-- V-RST-3. -/
theorem test_reset_drops_the_byte :
    left (st .seeking false 1#8 0#16 0#16 [⟨true, true, 1#8⟩])
      = some (⟨.seeking, false, 0#8, 0#16, 0#16⟩, false, 0#16) := by decide

/-- V-NOP-1. -/
theorem test_nop_holds_pub_raw :
    left { st .inFrame false 0#8 0x0100#16 150#16 [quietEdge 0x55#8] with
             pubValid := true, pubRaw := 150#16 }
      = some (⟨.inFrame, false, 0#8, 0x0100#16, 150#16⟩, false, 150#16) := by decide

/-- V-SEEK-2. -/
theorem test_mark_keeps_raw :
    left (st .seeking false 1#8 0x0096#16 150#16 [byteEdge 1#8])
      = some (⟨.inFrame, true, 0#8, 0x0096#16, 150#16⟩, false, 0#16) := by decide

/-- V-SEEK-10. -/
theorem test_mark_from_unreachable :
    left (st .seeking true 1#8 0#16 0#16 [byteEdge 1#8])
      = some (⟨.inFrame, true, 0#8, 0#16, 0#16⟩, false, 0#16) := by decide

/-- V-SEEK-9. -/
theorem test_shift_cancels_a_one :
    left (st .seeking false 1#8 0#16 0#16 [byteEdge 0xFF#8])
      = some (⟨.seeking, false, 0xFF#8, 0#16, 0#16⟩, false, 0#16) := by decide

/-- V-SEEK-11. -/
theorem test_shift_from_unreachable :
    left (st .seeking true 7#8 0#16 0#16 [byteEdge 3#8])
      = some (⟨.seeking, true, 3#8, 0#16, 0#16⟩, false, 0#16) := by decide

/-- V-HIGH-1. -/
theorem test_accept_overwrites_stale :
    left (st .inFrame true 0#8 0x0096#16 150#16 [byteEdge 0#8])
      = some (⟨.inFrame, false, 0#8, 0#16, 150#16⟩, false, 0#16) := by decide

/-- V-HIGH-2. -/
theorem test_accept_one :
    left (st .inFrame true 0#8 0#16 0#16 [byteEdge 1#8])
      = some (⟨.inFrame, false, 0#8, 0x0100#16, 0#16⟩, false, 0#16) := by decide

/-- V-HIGH-3. -/
theorem test_reject_two :
    left (st .inFrame true 0#8 0#16 77#16 [byteEdge 2#8])
      = some (⟨.seeking, false, 0#8, 0x0200#16, 77#16⟩, false, 0#16) := by decide

/-- V-HIGH-5. -/
theorem test_reject_is_unsigned :
    left (st .inFrame true 0#8 0#16 0#16 [byteEdge 0x80#8])
      = some (⟨.seeking, false, 0#8, 0x8000#16, 0#16⟩, false, 0#16) := by decide

/-- V-LOW-3. -/
theorem test_low_publishes_511 :
    left (st .inFrame false 0#8 0x0100#16 0#16 [byteEdge 0xFF#8])
      = some (⟨.seeking, false, 0#8, 511#16, 511#16⟩, true, 511#16) := by decide

/-- V-LOW-4. -/
theorem test_low_suppresses_an_equal_value :
    left (st .inFrame false 0#8 0x0100#16 257#16 [byteEdge 1#8])
      = some (⟨.seeking, false, 0#8, 257#16, 257#16⟩, false, 0#16) := by decide

/-- W3, R82: the event 200 stands for 20.0. -/
theorem test_measurement_of_200 : measurement 200#16 = 20 := by
  norm_num [measurement, Config.SCALE]

/-! ### Witnesses: what the statements assume can be met -/

/-- HIGH, LOW and a clean SEEK with a lone 0x01 seen, each meeting the invariant. -/
def hi0 (es : List InputEdge) : State := st .inFrame true 0#8 0x0500#16 77#16 es

def lo0 (es : List InputEdge) : State := st .inFrame false 0#8 0x0100#16 257#16 es

def one0 (es : List InputEdge) : State := st .seeking false 1#8 0#16 511#16 es

def clean0 : State := st .seeking false 0#8 0x0500#16 300#16 []

/-- EveryStepKeepsTheInvariant, PublishedValuesFitNineBits: their first premise, in each control state. -/
theorem witness_invariant_holds_in_every_control_state :
    DecoderInv (hi0 []) ∧ DecoderInv (lo0 []) ∧ DecoderInv (one0 []) ∧ DecoderInv clean0 ∧
    DecoderInv ⟨⟨.seeking, false, 0#8, 511#16, 511#16⟩, true, 511#16, []⟩ :=
  ⟨by decide, by decide, by decide, by decide, by decide⟩

/-- SelectorWordHasTheTabulatedLayout. -/
theorem witness_layout_ignores_the_idle_byte : (quietEdge 0xFF#8).inValid = false := by decide

/-- EverySelectorTakesItsFirstRow. -/
theorem witness_selector_facts :
    (0xFFFFF#20).getLsbD 19 = true ∧ (0x7FBFF#20).getLsbD 19 = false ∧
    (0x7FBFF#20).getLsbD 10 = false := by decide

/-- DecodingAnEncodedOperationGivesItBack. -/
theorem witness_encoded_operations :
    Instr.wf (.highAccept 1#8) = true ∧ admits 0xFFFFF#20 (.highAccept 1#8) = true ∧
    Instr.wf (.seekShift 1#8) = true ∧ admits 0x04800#20 (.seekShift 1#8) = true := by decide

/-- EncodingADecodedSelectorGivesItBack. -/
theorem witness_decoded_selector : decode 0x7FFFF#20 = .ok (.highReject 0xFF#8) := by decide

/-- APlacedWordIsTheNextSelector. -/
theorem witness_placed_word :
    0xFFFFF < 2 ^ 20 ∧ decodeTableWord 24 0xFFFFF = some .reset ∧
    decodeTableWord 24 0x7FFFF = some (.highReject 0xFF#8) := by decide

/-- StepPerformsTheDecodedOperation, StepRefinesTheNormativeStepFunction. -/
theorem witness_step_decodes :
    (one0 [byteEdge 1#8]).inputs = byteEdge 1#8 :: [] ∧
    decode (selectorOf (one0 [byteEdge 1#8]).decoder (byteEdge 1#8)) = .ok .seekMark ∧
    clean0.inputs = [] ∧ decode (selectorOf clean0.decoder idleEdge) = .ok .nop := by decide

/-- NoByteIsLostWhileTheHostKeepsItsDuty. -/
theorem witness_host_keeps_duty :
    HostKeepsDuty (one0 [byteEdge 1#8, resetEdge]).inputs ∧ (byteEdge 1#8).inValid = true := by
  decide

/-- ResetPutsEveryRegisterInItsResetValue. -/
theorem witness_reset_edge :
    (lo0 [⟨true, true, 0xFF#8⟩]).inputs = ⟨true, true, 0xFF#8⟩ :: [] ∧
    nextOf (exec .reset (lo0 [])) = some (st .seeking false 0#8 0#16 0#16 []) := by decide

/-- NopChangesNoDecoderField. -/
theorem witness_nop_edge :
    (lo0 [quietEdge 9#8]).inputs = quietEdge 9#8 :: [] ∧ (quietEdge 9#8).rst = false ∧
    (quietEdge 9#8).inValid = false ∧ [9#8, 0xFF#8] ≠ ([] : List Byte) := by decide

/-- SeekMarkOpensTheFrame. -/
theorem witness_seekMark :
    (one0 [byteEdge 1#8, byteEdge 1#8]).inputs = byteEdge 1#8 :: byteEdge 1#8 :: [] ∧
    (one0 []).decoder.syncState = .seeking ∧ (one0 []).decoder.lastMarkerByte = 1#8 := by decide

/-- SeekShiftStoresTheLookback. -/
theorem witness_seekShift :
    (one0 [byteEdge 0#8]).inputs = byteEdge 0#8 :: [] ∧
    (one0 [byteEdge 0#8]).decoder.syncState = .seeking ∧
    ¬ (0#8 = 0x01#8 ∧ (one0 [byteEdge 0#8]).decoder.lastMarkerByte = 0x01#8) ∧
    ¬ (1#8 = 0x01#8 ∧ clean0.decoder.lastMarkerByte = 0x01#8) := by decide

/-- HighAcceptTakesThePlausibleHighByte. -/
theorem witness_highAccept :
    (hi0 [byteEdge 1#8]).inputs = byteEdge 1#8 :: [] ∧
    (hi0 [byteEdge 1#8]).decoder.syncState = .inFrame ∧
    (hi0 [byteEdge 1#8]).decoder.awaitingHighByte = true ∧ (1#8).toNat ≤ 1 := by decide

/-- HighRejectAbandonsTheFrame. -/
theorem witness_highReject :
    DecoderInv (hi0 [byteEdge 2#8, byteEdge 1#8, byteEdge 1#8]) ∧
    (hi0 [byteEdge 2#8, byteEdge 1#8, byteEdge 1#8]).inputs =
      byteEdge 2#8 :: byteEdge 1#8 :: byteEdge 1#8 :: [] ∧
    (hi0 []).decoder.syncState = .inFrame ∧ (hi0 []).decoder.awaitingHighByte = true ∧
    2 ≤ (2#8).toNat ∧ 2 ≤ (255#8).toNat := by decide

/-- LowCompletesDeduplicatesAndPublishes. -/
theorem witness_low :
    DecoderInv (lo0 [byteEdge 255#8]) ∧ (lo0 [byteEdge 255#8]).inputs = byteEdge 255#8 :: [] ∧
    (lo0 [byteEdge 255#8]).decoder.syncState = .inFrame ∧
    (lo0 [byteEdge 255#8]).decoder.awaitingHighByte = false := by decide

/-- LowCompletesDeduplicatesAndPublishes, at the bound of its last clause. -/
theorem witness_low_at_its_largest_sum :
    (256#16 + (255#8).setWidth 16 : Word16).toNat = 511 := by decide

/-- OnlyTheListedOperationsWriteARegister: the registers a LOW changes. -/
theorem witness_low_writes_its_registers :
    nextOf (exec (.low 255#8) (lo0 [])) =
      some { st .seeking false 0#8 511#16 511#16 [] with pubValid := true, pubRaw := 511#16 } := by
  decide

/-- OnlyTheListedOperationsWriteARegister: the registers a SEEK_MARK changes. -/
theorem witness_seekMark_writes_its_registers :
    nextOf (exec .seekMark (one0 [])) = some (st .inFrame true 0#8 0#16 511#16 []) := by decide

/-- ControlFollowsTheTransitionTable: a step on each row of R65, with the boundary bytes. -/
theorem witness_transition_rows :
    step (one0 [resetEdge]) = .next (st .seeking false 0#8 0#16 0#16 []) ∧
    (one0 [resetEdge]).edge.rst = true ∧
    step (lo0 [quietEdge 1#8]) = .next (lo0 []) ∧ (lo0 [quietEdge 1#8]).edge.inValid = false ∧
    step (one0 [byteEdge 1#8]) = .next (st .inFrame true 0#8 0#16 511#16 []) ∧
    (one0 [byteEdge 1#8]).decoder.control = .seek ∧
    step (hi0 [byteEdge 1#8]) = .next (st .inFrame false 0#8 0x0100#16 77#16 []) ∧
    step (hi0 [byteEdge 2#8]) = .next (st .seeking false 0#8 0x0200#16 77#16 []) ∧
    (hi0 [byteEdge 2#8]).decoder.control = .high ∧
    step (lo0 [byteEdge 1#8]) = .next (st .seeking false 0#8 257#16 257#16 []) ∧
    (lo0 [byteEdge 1#8]).decoder.control = .low :=
  ⟨rfl, by decide, rfl, by decide, rfl, by decide, rfl, rfl, by decide, rfl, by decide⟩

/-- PayloadBytesNeverReachTheLookback. -/
theorem witness_payload_byte_one :
    step (lo0 [byteEdge 1#8]) = .next (st .seeking false 0#8 257#16 257#16 []) ∧
    (lo0 [byteEdge 1#8]).decoder.control ≠ .seek ∧ (lo0 [byteEdge 1#8]).edge.rst = false :=
  ⟨rfl, by decide, by decide⟩

/-- AMarkerNeedsAJustShiftedOne. -/
theorem witness_marker_after_a_pause :
    DecoderInv (given clean0 (byteEdge 1#8 :: ([7#8].map quietEdge ++ byteEdge 1#8 :: []))) ∧
    (given clean0 (byteEdge 1#8 :: ([7#8].map quietEdge ++ byteEdge 1#8 :: []))).operation =
      .ok (.seekShift 1#8) ∧
    core.run ([7#8].length + 1)
      (given clean0 (byteEdge 1#8 :: ([7#8].map quietEdge ++ byteEdge 1#8 :: []))) =
      .next (st .seeking false 1#8 0x0500#16 300#16 [byteEdge 1#8]) :=
  ⟨by decide, by decide, rfl⟩

/-- OnlyLowPublishesAndReadsTheLatch, its second clause. -/
theorem witness_latch_unread_by_seekShift :
    (Instr.seekShift 5#8).op ≠ .low ∧
    nextOf (exec (.seekShift 5#8) clean0) = some (st .seeking false 5#8 0x0500#16 300#16 []) := by
  decide

/-- AnEventCarriesTheAssembledValue, EveryStepKeepsTheInvariant, PublishedValuesFitNineBits,
OnlyLowPublishesAndReadsTheLatch: a LOW that publishes, and one that does not. -/
theorem witness_published_and_suppressed :
    DecoderInv (lo0 [byteEdge 255#8]) ∧
    step (lo0 [byteEdge 255#8]) =
      .next { st .seeking false 0#8 511#16 511#16 [] with pubValid := true, pubRaw := 511#16 } ∧
    ({ st .seeking false 0#8 511#16 511#16 [] with pubValid := true, pubRaw := 511#16 } : State).event
      = some 511#16 ∧
    step (lo0 [byteEdge 1#8]) = .next (st .seeking false 0#8 257#16 257#16 []) ∧
    (st .seeking false 0#8 257#16 257#16 []).event = none ∧ (lo0 [byteEdge 1#8]).edge.rst = false :=
  ⟨by decide, rfl, by decide, rfl, by decide, by decide⟩

/-- MeasurementsAreExactTenths: a value 0 is published where the latch holds another value. -/
theorem witness_zero_is_published :
    DecoderInv (st .inFrame false 0#8 0#16 5#16 [byteEdge 0#8]) ∧
    step (st .inFrame false 0#8 0#16 5#16 [byteEdge 0#8]) =
      .next { st .seeking false 0#8 0#16 0#16 [] with pubValid := true } ∧
    ({ st .seeking false 0#8 0#16 0#16 [] with pubValid := true } : State).event = some 0#16 ∧
    measurement 0#16 = 0 :=
  ⟨by decide, rfl, by decide, by norm_num [measurement, Config.SCALE]⟩

/-- PayloadIsAssembledBigEndian, OnlyTheHighByteIsRangeChecked. -/
theorem witness_high_byte_at_its_bound :
    (hi0 []).decoder.control = .high ∧ (1#8).toNat ≤ 1 ∧ 256 * (1#8).toNat ≤ 256 ∧
    2 ≤ (2#8).toNat ∧ (lo0 []).decoder.control = .low := by decide

/-- ValuesUpTo511HaveAnAcceptedFrame, ResetMakesAnEqualValueNewAgain,
AStrayOneMisreadsTheNextFrame. -/
theorem witness_frame_values_at_the_bound :
    CleanSeek clean0 ∧ (511#16).toNat ≤ 511 ∧ 512 ≤ (512#16).toNat := by decide

/-- AcceptedFramesPublishExactlyTheirChanges: two frames with an idle edge between. -/
theorem witness_frame_schedule :
    CleanSeek clean0 ∧ (∀ v ∈ [300#16, 511#16], v.toNat ≤ 511) ∧
    (∀ e ∈ bytes (frame 300#16) ++ quietEdge 1#8 :: bytes (frame 511#16), e.rst = false) ∧
    presented (bytes (frame 300#16) ++ quietEdge 1#8 :: bytes (frame 511#16)) =
      ([300#16, 511#16].map frame).flatten :=
  ⟨by decide, by simp, by simp [bytes, frame, byteEdge, quietEdge],
    by simp [presented, bytes, frame, byteEdge, quietEdge]⟩

/-- ZeroFramesBeforeAnyOtherAreSilent. -/
theorem witness_sentinel :
    CleanSeek State.reset ∧ State.reset.decoder.lastEmittedValue = 0x0000#16 ∧
    (511#16).toNat ≤ 511 := by decide

/-- AReturningValueIsPublishedAgain. -/
theorem witness_returning_value :
    CleanSeek clean0 ∧ (511#16).toNat ≤ 511 ∧ (0#16).toNat ≤ 511 ∧ 511#16 ≠ 0#16 ∧
    511#16 ≠ clean0.decoder.lastEmittedValue := by decide

/-- RejectedFramesAndNoiseKeepTheDedup: the noise of V-DEDUP-5, no noise, and noise that starts with a
lone 0x01. -/
theorem witness_rejected_frame_and_noise :
    CleanSeek clean0 ∧ (300#16).toNat ≤ 511 ∧ 2 ≤ (2#8).toNat ∧
    ∀ noise ∈ [[9#8, 1#8, 0#8], [], [1#8, 0xFF#8, 1#8, 0#8]],
      noise.IsChain (fun x y : Byte => ¬ (x = 0x01#8 ∧ y = 0x01#8)) ∧
      noise.getLast? ≠ some 0x01#8 :=
  ⟨by decide, by decide, by decide, by decide⟩

/-- ACutFrameSwallowsTheNext: a state in HIGH, and one in LOW whose next sum, 257, is in the latch. -/
theorem witness_cut_frame :
    (hi0 []).decoder.control = .high ∧ (hi0 []).decoder.lastMarkerByte = 0x00#8 ∧
    (hi0 []).decoder.lastEmittedValue ≠ 0x0101#16 ∧
    (lo0 []).decoder.control = .low ∧ (lo0 []).decoder.lastMarkerByte = 0x00#8 ∧
    (lo0 []).decoder.rawValue + 0x0001#16 = (lo0 []).decoder.lastEmittedValue := by decide

/-- V-ASM-8, as ACutFrameSwallowsTheNext has it: the frame of 200 after a cut in HIGH. -/
theorem witness_cut_in_high_publishes_257 :
    published 5 (given (hi0 []) (quietEdge 1#8 :: bytes (frame 200#16))) = [257#16] := by decide

/-- ACutFrameSwallowsTheNext at its boundary: after a cut in LOW the frame of 256 ends in LOW, the frame
of 512 in SEEK. -/
theorem witness_cut_in_low_at_its_boundary :
    (nextOf (core.run 4 (given (lo0 []) (bytes (frame 256#16))))).map (·.decoder.control) = some .low ∧
    (nextOf (core.run 4 (given (lo0 []) (bytes (frame 512#16))))).map (·.decoder.control) =
      some .seek := by decide

/-- EventsAreFourEdgesApart: the state after a LOW, and the one its third step starts from. -/
theorem witness_event_spacing :
    DecoderInv (lo0 (bytes [255#8, 1#8, 1#8, 0#8])) ∧
    (lo0 (bytes [255#8, 1#8, 1#8, 0#8])).operation = .ok (.low 255#8) ∧
    step (lo0 (bytes [255#8, 1#8, 1#8, 0#8])) =
      .next { st .seeking false 0#8 511#16 511#16 (bytes [1#8, 1#8, 0#8]) with
        pubValid := true, pubRaw := 511#16 } ∧
    core.run 2 { st .seeking false 0#8 511#16 511#16 (bytes [1#8, 1#8, 0#8]) with
        pubValid := true, pubRaw := 511#16 } =
      .next { st .inFrame true 0#8 511#16 511#16 (bytes [0#8]) with pubRaw := 511#16 } :=
  ⟨by decide, by decide, rfl, rfl⟩

/-- TheStaleAccumulatorIsUnobservable. -/
theorem witness_stale_accumulator :
    (hi0 []).decoder.control ≠ .low ∧ clean0.decoder.control ≠ .low := by decide

/-- AnUnsampledByteHasNoEffect. -/
theorem witness_unsampled_bytes :
    [quietEdge 0x00#8, byteEdge 1#8].map
        (fun e => (e.rst, e.inValid, if e.inValid then e.inByte else 0x00#8)) =
      [quietEdge 0xFF#8, byteEdge 1#8].map
        (fun e => (e.rst, e.inValid, if e.inValid then e.inByte else 0x00#8)) := by decide

/-! ### The host (R97) -/

/-- A source that keeps its duties: a reset, then the frame of 150 with an idle edge inside. -/
def boot0 : List HostMove := [.idle 1#8, .reset 1#8]

def rest0 : List HostMove := [.byte 1#8, .idle 1#8, .byte 1#8, .byte 0#8, .byte 150#8]

/-- HostMovesAreTheEdgesThatKeepTheDuty: an edge of each side. -/
theorem witness_edges_of_both_sides :
    HostKeepsDuty (boot0.map HostMove.edge) ∧ ¬ HostKeepsDuty [⟨true, true, 1#8⟩] := by decide

/-- EachByteOfTheStreamIsTakenOnceInOrder, TheStateBeforeResetIsUnobservable. -/
theorem witness_source_keeps_duties :
    SourceKeepsDuties (frame 150#16) (boot0 ++ rest0) ∧ .reset 1#8 ∈ (boot0 ++ rest0).take 2 ∧
    resetFirst (.idle 1#8 :: rest0) = false := by decide

/-- AnEventNotSampledInItsCycleIsLost: a step that publishes 511, with a repeat of its frame and then the
frame of 0 waiting; a sink that misses it next receives 0. -/
theorem witness_event_not_sampled_is_lost :
    ((nextOf (step (lo0 (bytes (255#8 :: frame 511#16 ++ frame 0#16))))).bind State.event) = some 511#16 ∧
    (∀ e ∈ bytes (frame 511#16 ++ frame 0#16), e.rst = false) ∧
    received (false :: List.replicate 8 true) (lo0 (bytes (255#8 :: frame 511#16 ++ frame 0#16))) =
      [0#16] :=
  ⟨by decide, by decide, by decide⟩

/-- HostsThatKeepTheirDutiesReceiveExactlyTheChanges: its premises on the source. -/
theorem witness_boot_then_frames :
    SourceKeepsDuties ([150#16].map frame).flatten (boot0 ++ rest0) ∧ streamOf boot0 = [] ∧
    (∃ m ∈ boot0, m.isReset = true) ∧ (∀ m ∈ rest0, m.isReset = false) ∧ (150#16).toNat ≤ 511 := by
  decide

/-- HostsThatKeepTheirDutiesReceiveExactlyTheChanges: its premise on the sink, which here samples only the
cycle after the LOW. -/
theorem witness_sink_keeps_duty :
    SinkKeepsDuty [false, false, false, false, false, false, true] (lo0 [] |>.hosted (boot0 ++ rest0)) :=
  ⟨nofun, nofun, nofun, nofun, nofun, nofun, fun _ => rfl, trivial⟩

end Sys2Proof.Tests
end

namespace Sys2Proof.Proofs

open Sys2Proof.Machine Sys2Proof.Safety Sys2Proof.Laws

/-! ## Effect of an operation

What an operation does to the registers, said once: the decoder it leaves and the event it answers
(R66 to R68, R72 to R74, R98). Proofs about `exec` go through `exec_eq`. -/

/-- The decoder an operation leaves. -/
def decoderAfter : Instr → DecoderState → DecoderState
  | .reset, _ => DecoderState.reset
  | .nop, d => d
  | .seekMark, d =>
    { d with syncState := .inFrame, awaitingHighByte := true, lastMarkerByte := 0x00#8 }
  | .seekShift b, d => { d with lastMarkerByte := b }
  | .highAccept b, d => { d with awaitingHighByte := false, rawValue := highPart b }
  | .highReject b, d =>
    { d with syncState := .seeking, awaitingHighByte := false, rawValue := highPart b }
  | .low b, d =>
    { d with
      syncState := .seeking
      rawValue := addLow d.rawValue b
      lastEmittedValue := addLow d.rawValue b }

/-- The event an operation answers. -/
def eventOf : Instr → DecoderState → Event
  | .low b, d => dedupEvent (addLow d.rawValue b) d.lastEmittedValue
  | _, _ => none

/-- The machine after an operation. -/
def perform (i : Instr) (s : State) : State :=
  { decoder := decoderAfter i s.decoder
    pubValid := (eventOf i s.decoder).isSome
    pubRaw := if i = .reset then 0x0000#16 else (eventOf i s.decoder).getD s.pubRaw
    inputs := s.inputs }

/-- Every operation answers a next state, and this one (R62). -/
theorem exec_eq (i : Instr) (s : State) : exec i s = .next (perform i s) := by
  cases i with
  | low b => exact clockEdge_eq ..
  | _ => rfl

theorem exec_eq_next_iff {i : Instr} {s t : State} : exec i s = .next t ↔ t = perform i s := by
  simp [exec_eq, eq_comm]

section Fields

variable (i : Instr) (s : State)

@[simp] theorem perform_decoder : (perform i s).decoder = decoderAfter i s.decoder := rfl

@[simp] theorem perform_pubValid : (perform i s).pubValid = (eventOf i s.decoder).isSome := rfl

@[simp] theorem perform_pubRaw :
    (perform i s).pubRaw = if i = .reset then 0x0000#16 else (eventOf i s.decoder).getD s.pubRaw :=
  rfl

@[simp] theorem perform_inputs : (perform i s).inputs = s.inputs := rfl

/-- R63: what the sink reads after an operation is the event it answered. -/
@[simp] theorem perform_event : (perform i s).event = eventOf i s.decoder := by
  by_cases hi : i = .reset
  · subst hi
    rfl
  · cases h : eventOf i s.decoder <;> simp [State.event, hi, h]

end Fields

/-! ## Selection and step

Which operation a step performs, in terms of the decoder's fields and the sampled edge
(spec/30_encoding.md R56, R57), and the step written with it. -/

/-! ### The control states (R23) -/

theorem control_high (d : DecoderState) :
    d.control = .high ↔ d.syncState = .inFrame ∧ d.awaitingHighByte = true := by
  cases d with
  | mk y a l r v => cases y <;> cases a <;> simp [DecoderState.control]

theorem control_low (d : DecoderState) :
    d.control = .low ↔ d.syncState = .inFrame ∧ d.awaitingHighByte = false := by
  cases d with
  | mk y a l r v => cases y <;> cases a <;> simp [DecoderState.control]

/-! ### The selected operation -/

/-- R57, the column "condition in words": the operation performed from `d` at the edge `e`. -/
inductive Selects (d : DecoderState) (e : InputEdge) : Instr → Prop
  | reset (hrst : e.rst = true) : Selects d e .reset
  | nop (hrst : e.rst = false) (hvalid : e.inValid = false) : Selects d e .nop
  | seekMark (hrst : e.rst = false) (hvalid : e.inValid = true) (hsync : d.syncState = .seeking)
      (hbyte : e.inByte = 0x01#8) (hlookback : d.lastMarkerByte = 0x01#8) : Selects d e .seekMark
  | seekShift (hrst : e.rst = false) (hvalid : e.inValid = true) (hsync : d.syncState = .seeking)
      (hbyte : ¬ (e.inByte = 0x01#8 ∧ d.lastMarkerByte = 0x01#8)) :
      Selects d e (.seekShift e.inByte)
  | highAccept (hrst : e.rst = false) (hvalid : e.inValid = true) (hsync : d.syncState = .inFrame)
      (hawait : d.awaitingHighByte = true) (hbyte : e.inByte.toNat ≤ 1) :
      Selects d e (.highAccept e.inByte)
  | highReject (hrst : e.rst = false) (hvalid : e.inValid = true) (hsync : d.syncState = .inFrame)
      (hawait : d.awaitingHighByte = true) (hbyte : 2 ≤ e.inByte.toNat) :
      Selects d e (.highReject e.inByte)
  | low (hrst : e.rst = false) (hvalid : e.inValid = true) (hsync : d.syncState = .inFrame)
      (hawait : d.awaitingHighByte = false) : Selects d e (.low e.inByte)

/-- R56, R62: some operation is always selected. -/
theorem exists_selects (d : DecoderState) (e : InputEdge) : ∃ i, Selects d e i := by
  cases hrst : e.rst with
  | true => exact ⟨_, .reset hrst⟩
  | false =>
    cases hvalid : e.inValid with
    | false => exact ⟨_, .nop hrst hvalid⟩
    | true =>
      cases hsync : d.syncState with
      | seeking =>
        by_cases hmark : e.inByte = 0x01#8 ∧ d.lastMarkerByte = 0x01#8
        · exact ⟨_, .seekMark hrst hvalid hsync hmark.1 hmark.2⟩
        · exact ⟨_, .seekShift hrst hvalid hsync hmark⟩
      | inFrame =>
        cases hawait : d.awaitingHighByte with
        | false => exact ⟨_, .low hrst hvalid hsync hawait⟩
        | true =>
          rcases Nat.lt_or_ge e.inByte.toNat 2 with hbyte | hbyte
          · exact ⟨_, .highAccept hrst hvalid hsync hawait (Nat.le_of_lt_succ hbyte)⟩
          · exact ⟨_, .highReject hrst hvalid hsync hawait hbyte⟩

@[simp] theorem rowOf_op (o : Op) : (rowOf o).op = o := by
  cases o <;> rfl

/-- R56: `rowOf o` is the first row of the table that matches `S`. -/
def FirstHit (o : Op) (S : Selector) : Prop := opTable.find? (fun r => r.hits S) = some (rowOf o)

theorem decode_of_firstHit {o : Op} {S : Selector} (h : FirstHit o S) :
    decode S = .ok (buildInstr o S) := by
  rw [FirstHit] at h
  simp [decode, h]

/-- R57: the row of a selected operation matches, and those of smaller priority miss. -/
theorem firstHit_of_selects {d : DecoderState} {e : InputEdge} {i : Instr} (h : Selects d e i) :
    FirstHit i.op (selectorOf d e) := by
  cases h with
  | highReject hrst hvalid hsync hawait hbyte =>
    have hrange : ¬ e.inByte.toNat ≤ 1 := by omega
    simp [FirstHit, opTable, hits_reset, hits_nop, hits_seekMark, hits_seekShift, hits_highAccept,
      hits_highReject, SyncState.bit, Instr.op, hrst, hvalid, hsync, hawait, hrange]
  | _ =>
    simp_all [FirstHit, opTable, hits_reset, hits_nop, hits_seekMark, hits_seekShift,
      hits_highAccept, hits_highReject, hits_low, SyncState.bit, Instr.op]

/-- The decoder answers the operation selected; its operand is the sampled byte. -/
theorem decode_selectorOf {d : DecoderState} {e : InputEdge} {i : Instr} (h : Selects d e i) :
    decode (selectorOf d e) = .ok i := by
  rw [decode_of_firstHit (firstHit_of_selects h)]
  cases h <;> simp [Instr.op, buildInstr]

theorem operation_eq_ok_iff {s : State} {i : Instr} :
    s.operation = .ok i ↔ Selects s.decoder s.edge i := by
  constructor
  · intro h
    obtain ⟨j, hj⟩ := exists_selects s.decoder s.edge
    exact Except.ok.inj ((decode_selectorOf hj).symm.trans h) ▸ hj
  · exact decode_selectorOf

/-! ### The step -/

/-- R61: a step performs the operation selected. -/
theorem step_of_selects {s : State} {i : Instr} (h : Selects s.decoder s.edge i) :
    step s = .next (perform i s.afterEdge) := by
  rw [step, fetch_ok s i (operation_eq_ok_iff.mpr h)]
  exact exec_eq ..

/-- Everything a step can do. -/
theorem step_eq_next_iff {s t : State} :
    step s = .next t ↔ ∃ i, Selects s.decoder s.edge i ∧ t = perform i s.afterEdge := by
  constructor
  · intro h
    obtain ⟨i, hi⟩ := exists_selects s.decoder s.edge
    rw [step_of_selects hi] at h
    exact ⟨i, hi, (Host.Outcome.next.inj h).symm⟩
  · rintro ⟨i, hi, rfl⟩
    exact step_of_selects hi

/-- R26: a step publishes its event first. -/
theorem published_succ {s t : State} (h : step s = .next t) (n : Nat) :
    published (n + 1) s = t.event.toList ++ published n t := by
  simp [published, h]

/-! ## The statements of spec/10_state.md

Who writes a register (R14), the invariant (R28 to R31), the
range of what is published (R31), and the stale accumulator (R32). -/

/-! ### The columns of R14 -/

/-- Settles O21: row by row of R14, on the decoder each operation leaves; an event is LOW's alone. -/
theorem onlyTheListedOperationsWriteARegister :
    Obligations.OnlyTheListedOperationsWriteARegister := by
  intro i s t h
  obtain rfl := exec_eq_next_iff.mp h
  cases i with
  | low b => simp [Instr.op, decoderAfter]
  | _ => simp [Instr.op, decoderAfter, eventOf]

/-! ### The invariant -/

/-- R71, R76: an accepted high byte makes `rawValue` 0x0000 or 0x0100. -/
theorem highPart_of_le_one {b : Byte} (h : b.toNat ≤ 1) :
    highPart b = 0x0000#16 ∨ highPart b = 0x0100#16 := by
  have hb := highPart_toNat b
  rcases Nat.le_one_iff_eq_zero_or_eq_one.mp h with h0 | h1
  · exact .inl (BitVec.eq_of_toNat_eq (by simp [hb, h0]))
  · exact .inr (BitVec.eq_of_toNat_eq (by simp [hb, h1]))

/-- R30, R74: in LOW the sum stays within nine bits. -/
theorem addLow_le_511 {raw : Word16} (b : Byte) (h : raw = 0x0000#16 ∨ raw = 0x0100#16) :
    (addLow raw b).toNat ≤ 511 := by
  have hraw : raw.toNat ≤ 256 := by rcases h with rfl | rfl <;> decide
  have hb : b.toNat < 256 := b.isLt
  rw [addLow_toNat raw b hraw]
  omega

/-- LOW is where the bounds are at stake: the new latch and an event are the sum, and the lookback is
the frame's 0x00 (R29). -/
theorem perform_low_keeps_inv {s : State} (b : Byte) (hinv : DecoderInv s)
    (hsync : s.decoder.syncState = .inFrame) (hawait : s.decoder.awaitingHighByte = false) :
    DecoderInv (perform (.low b) s) := by
  obtain ⟨-, hlookback, hraw, -, hpub, -⟩ := hinv
  have hsum := addLow_le_511 b (hraw hsync hawait)
  by_cases h : addLow s.decoder.rawValue b = s.decoder.lastEmittedValue
  · simpa [DecoderInv, decoderAfter, eventOf, dedupEvent, hawait, h] using ⟨h ▸ hsum, hpub⟩
  · simp [DecoderInv, decoderAfter, eventOf, dedupEvent, hawait, h, hsum, hlookback hsync]

/-- The invariant is kept by every operation where the selector performs it. -/
theorem perform_keeps_inv {s : State} {e : InputEdge} {i : Instr} (hinv : DecoderInv s)
    (h : Selects s.decoder e i) : DecoderInv (perform i s) := by
  have ⟨hseek, hlookback, hraw, hlatch, hpub, _⟩ := hinv
  cases h with
  | reset => simp [DecoderInv, decoderAfter, eventOf, DecoderState.reset, Config.LEV_INIT]
  | nop => exact ⟨hseek, hlookback, hraw, hlatch, hpub, nofun⟩
  | seekMark => exact ⟨nofun, fun _ => rfl, nofun, hlatch, hpub, nofun⟩
  | seekShift _ _ hsync =>
    exact ⟨hseek, by simp [decoderAfter, hsync], hraw, hlatch, hpub, nofun⟩
  | highAccept _ _ _ _ hbyte =>
    exact ⟨fun _ => rfl, hlookback, fun _ _ => highPart_of_le_one hbyte, hlatch, hpub, nofun⟩
  | highReject => exact ⟨fun _ => rfl, nofun, nofun, hlatch, hpub, nofun⟩
  | low _ _ hsync hawait => exact perform_low_keeps_inv _ hinv hsync hawait

/-- Settles O28, by the operation the step performs; dropping the sampled edge touches no register. -/
theorem everyStepKeepsTheInvariant : Obligations.EveryStepKeepsTheInvariant := by
  intro s t hinv h
  obtain ⟨i, hi, rfl⟩ := step_eq_next_iff.mp h
  exact perform_keeps_inv (s := s.afterEdge) hinv hi

/-! ### What is published fits nine bits -/

/-- R26: an event is what stands in `pub_raw`. -/
theorem event_eq_some_iff {s : State} {v : Word16} :
    s.event = some v ↔ s.pubValid = true ∧ s.pubRaw = v := by
  simp [State.event]

theorem highBits_eq_zero_of_le_511 {v : Word16} (h : v.toNat ≤ 511) : v.extractLsb' 9 7 = 0#7 := by
  apply BitVec.eq_of_toNat_eq
  have hdiv : v.toNat / 512 = 0 := by omega
  simp [BitVec.extractLsb'_toNat, Nat.shiftRight_eq_div_pow, hdiv]

/-- Settles O29: the bounds of the invariant, after the step that keeps it. -/
theorem publishedValuesFitNineBits : Obligations.PublishedValuesFitNineBits := by
  intro s t hinv h
  obtain ⟨-, -, -, hlatch, hpub, -⟩ := everyStepKeepsTheInvariant s t hinv h
  refine ⟨hlatch, fun v hv => ?_, highBits_eq_zero_of_le_511 hpub⟩
  obtain ⟨-, rfl⟩ := event_eq_some_iff.mp hv
  exact hpub

/-! ### The stale accumulator -/

/-- `s` with `raw` in the accumulator. -/
def withRaw (s : State) (raw : Word16) : State :=
  { s with decoder := { s.decoder with rawValue := raw } }

/-- R55: `rawValue` takes no part in the selection. -/
theorem selects_withRaw {s : State} {i : Instr} (raw : Word16) (h : Selects s.decoder s.edge i) :
    Selects (withRaw s raw).decoder (withRaw s raw).edge i :=
  operation_eq_ok_iff.mp <| show s.operation = .ok i from operation_eq_ok_iff.mpr h

/-- R32: a step outside LOW either carries another accumulator along, and stays outside LOW, or
overwrites it, and the two runs meet. -/
theorem step_withRaw {s : State} (raw : Word16) (hlow : s.decoder.control ≠ .low) :
    ∃ t, step s = .next t ∧
      (step (withRaw s raw) = .next t ∨
        (t.decoder.control ≠ .low ∧ step (withRaw s raw) = .next (withRaw t raw))) := by
  obtain ⟨i, hi⟩ := exists_selects s.decoder s.edge
  rw [step_of_selects (selects_withRaw raw hi), step_of_selects hi]
  refine ⟨_, rfl, ?_⟩
  cases hi with
  | reset => exact .inl rfl
  | nop => exact .inr ⟨hlow, rfl⟩
  | seekMark => exact .inr ⟨by simp [control_low, decoderAfter], rfl⟩
  | seekShift _ _ hsync => exact .inr ⟨by simp [control_low, decoderAfter, hsync], rfl⟩
  | highAccept => exact .inl rfl
  | highReject => exact .inl rfl
  | low _ _ hsync hawait => exact absurd ((control_low _).mpr ⟨hsync, hawait⟩) hlow

/-- Settles O42, by induction on the number of steps: the runs go side by side until they meet. -/
theorem theStaleAccumulatorIsUnobservable : Obligations.TheStaleAccumulatorIsUnobservable := by
  intro s raw n hlow
  change published n (withRaw s raw) = published n s
  induction n generalizing s with
  | zero => rfl
  | succ n ih =>
    obtain ⟨t, hs, hmeet | ⟨ht, hcarry⟩⟩ := step_withRaw raw hlow
    · rw [published_succ hmeet, published_succ hs]
    · rw [published_succ hcarry, published_succ hs, ih t ht]
      rfl

end Sys2Proof.Proofs

namespace Sys2Proof.Proofs

open Sys2Proof.Machine Sys2Proof.Safety

/-! ## The statements of spec/20_memory.md

The input is a stream of edges, each consumed once and in order (R35, R41, R43): a step takes the
first one, and what waits behind it passes through unread. -/

/-- No operation reads the schedule (R11): it passes through unchanged. -/
theorem perform_given (i : Instr) (s : State) (es : List InputEdge) :
    perform i (given s es) = given (perform i s) es := rfl

/-- A step on a schedule: the operation is selected by its first edge alone, and the rest is left. -/
theorem step_given_cons {s : State} {e : InputEdge} {i : Instr} (h : Selects s.decoder e i)
    (es : List InputEdge) : step (given s (e :: es)) = .next (given (perform i s) es) := by
  have hstep : step (given s (e :: es)) = .next (perform i (given s es)) := step_of_selects h
  rw [hstep, perform_given]

/-- Settles O11: the operation selected at the first edge is the same for both continuations. -/
theorem stepReadsOneEdgeAndNoneAhead : Obligations.StepReadsOneEdgeAndNoneAhead := by
  intro s e es es'
  obtain ⟨i, hi⟩ := exists_selects s.decoder e
  exact ⟨given (perform i s) es, step_given_cons hi es, rfl, step_given_cons hi es'⟩

end Sys2Proof.Proofs

namespace Sys2Proof.Proofs

open Sys2Proof.Machine Sys2Proof.Safety Sys2Proof.Laws

/-! ## The statements of spec/30_encoding.md

A selector word is a decoder and an edge (R55): the state in which the word is placed forms it, so what
it decodes to is what `Selects` says of that state. -/

/-! ### Placing a word -/

@[simp] theorem present_edge (s : State) (S : Selector) :
    (s.present S).edge = ⟨selRst S, selValid S, selByte S⟩ := rfl

@[simp] theorem ofBit_eq_seeking_iff (b : Bool) : SyncState.ofBit b = .seeking ↔ b = false := by
  cases b <;> decide

@[simp] theorem ofBit_eq_inFrame_iff (b : Bool) : SyncState.ofBit b = .inFrame ↔ b = true := by
  cases b <;> decide

/-- R55: the fields of a selector word are all of it. -/
theorem selector_ext {S T : Selector} (hrst : selRst S = selRst T) (hlmb : selLmb S = selLmb T)
    (hvalid : selValid S = selValid T) (hsync : selSync S = selSync T) (hahb : selAhb S = selAhb T)
    (hbyte : selByte S = selByte T) : S = T := by
  simp only [selLmb, selByte, eq_iff_bits, BitVec.getLsbD_extractLsb', Nat.forall_lt_succ_right]
    at hlmb hbyte
  simp only [selRst, selValid, selSync, selAhb] at hrst hvalid hsync hahb
  simp only [eq_iff_bits, Nat.forall_lt_succ_right]
  simp_all

/-- R55, log 7: the state a word is placed in forms that word. -/
theorem selectorOf_present (s : State) (S : Selector) :
    selectorOf (s.present S).decoder (s.present S).edge = S :=
  selector_ext (by simp) (by simp) (by simp) (by simp) (by simp) (by simp)

theorem operation_present (s : State) (S : Selector) : (s.present S).operation = decode S := by
  rw [State.operation, selectorOf_present]

/-- What a word decodes to, in terms of the state it is placed in. -/
theorem decode_eq_ok_iff (s : State) {S : Selector} {i : Instr} :
    decode S = .ok i ↔ Selects (s.present S).decoder (s.present S).edge i := by
  rw [← operation_eq_ok_iff, operation_present]

/-! ### The row of a word (R56) -/

@[simp] theorem buildInstr_op (o : Op) (S : Selector) : (buildInstr o S).op = o := by
  cases o <;> rfl

theorem rowOf_mem_opTable (o : Op) : rowOf o ∈ opTable := by
  cases o <;> decide

theorem opTable_sorted : opTable.Pairwise (fun r r' => r.prio ≤ r'.prio) := by
  decide

theorem hits_iff {r : Row} {S : Selector} : r.hits S = true ↔ S &&& r.mask = r.value := by
  simp [Row.hits]

theorem FirstHit.hits {o : Op} {S : Selector} (h : FirstHit o S) : (rowOf o).hits S = true := by
  rw [FirstHit] at h
  exact List.find?_some (p := fun r : Row => r.hits S) h

/-- The table is in priority order, so the first row that matches has the smallest priority number. -/
theorem FirstHit.prio_le {o : Op} {S : Selector} (h : FirstHit o S) {r : Row} (hr : r ∈ opTable)
    (hhits : r.hits S = true) : (rowOf o).prio ≤ r.prio := by
  obtain ⟨-, before, after, hsplit, hmiss⟩ := List.find?_eq_some_iff_append.mp h
  have hsorted := opTable_sorted
  rw [hsplit] at hr hsorted
  obtain ⟨-, hafter, -⟩ := List.pairwise_append.mp hsorted
  rcases List.mem_append.mp hr with hr | hr
  · exact absurd hhits (by simpa using hmiss r hr)
  · rcases List.mem_cons.mp hr with rfl | hr
    · exact le_rfl
    · exact (List.pairwise_cons.mp hafter).1 r hr

/-- A word that decodes to `i` does so by the row of `i`. -/
theorem firstHit_of_decode {S : Selector} {i : Instr} (h : decode S = .ok i) : FirstHit i.op S :=
  selectorOf_present State.reset S ▸ firstHit_of_selects ((decode_eq_ok_iff State.reset).mp h)

theorem exists_firstHit (S : Selector) : ∃ o, FirstHit o S := by
  obtain ⟨i, hi⟩ := exists_selects (State.reset.present S).decoder (State.reset.present S).edge
  exact ⟨i.op, firstHit_of_decode ((decode_eq_ok_iff State.reset).mpr hi)⟩

/-! ### Each operation's condition, as an equivalence (R57) -/

section Conditions

variable {d : DecoderState} {e : InputEdge} {b : Byte}

theorem selects_reset_iff : Selects d e .reset ↔ e.rst = true :=
  ⟨fun | .reset hrst => hrst, .reset⟩

theorem selects_nop_iff : Selects d e .nop ↔ e.rst = false ∧ e.inValid = false :=
  ⟨fun | .nop hrst hvalid => ⟨hrst, hvalid⟩, fun ⟨hrst, hvalid⟩ => .nop hrst hvalid⟩

theorem selects_seekMark_iff :
    Selects d e .seekMark ↔ e.rst = false ∧ e.inValid = true ∧ d.syncState = .seeking ∧
      e.inByte = 0x01#8 ∧ d.lastMarkerByte = 0x01#8 :=
  ⟨fun | .seekMark hrst hvalid hsync hbyte hlookback => ⟨hrst, hvalid, hsync, hbyte, hlookback⟩,
    fun ⟨hrst, hvalid, hsync, hbyte, hlookback⟩ => .seekMark hrst hvalid hsync hbyte hlookback⟩

theorem selects_seekShift_iff :
    Selects d e (.seekShift b) ↔ e.rst = false ∧ e.inValid = true ∧ d.syncState = .seeking ∧
      e.inByte = b ∧ ¬ (b = 0x01#8 ∧ d.lastMarkerByte = 0x01#8) := by
  constructor
  · intro h
    cases h with
    | seekShift hrst hvalid hsync hbyte => exact ⟨hrst, hvalid, hsync, rfl, hbyte⟩
  · rintro ⟨hrst, hvalid, hsync, rfl, hbyte⟩
    exact .seekShift hrst hvalid hsync hbyte

theorem selects_highAccept_iff :
    Selects d e (.highAccept b) ↔ e.rst = false ∧ e.inValid = true ∧ d.syncState = .inFrame ∧
      d.awaitingHighByte = true ∧ e.inByte = b ∧ b.toNat ≤ 1 := by
  constructor
  · intro h
    cases h with
    | highAccept hrst hvalid hsync hawait hbyte => exact ⟨hrst, hvalid, hsync, hawait, rfl, hbyte⟩
  · rintro ⟨hrst, hvalid, hsync, hawait, rfl, hbyte⟩
    exact .highAccept hrst hvalid hsync hawait hbyte

theorem selects_highReject_iff :
    Selects d e (.highReject b) ↔ e.rst = false ∧ e.inValid = true ∧ d.syncState = .inFrame ∧
      d.awaitingHighByte = true ∧ e.inByte = b ∧ 2 ≤ b.toNat := by
  constructor
  · intro h
    cases h with
    | highReject hrst hvalid hsync hawait hbyte => exact ⟨hrst, hvalid, hsync, hawait, rfl, hbyte⟩
  · rintro ⟨hrst, hvalid, hsync, hawait, rfl, hbyte⟩
    exact .highReject hrst hvalid hsync hawait hbyte

theorem selects_low_iff :
    Selects d e (.low b) ↔ e.rst = false ∧ e.inValid = true ∧ d.syncState = .inFrame ∧
      d.awaitingHighByte = false ∧ e.inByte = b := by
  constructor
  · intro h
    cases h with
    | low hrst hvalid hsync hawait => exact ⟨hrst, hvalid, hsync, hawait, rfl⟩
  · rintro ⟨hrst, hvalid, hsync, hawait, rfl⟩
    exact .low hrst hvalid hsync hawait

end Conditions

/-- Settles O4: the conditions of `Selects`, read off the fields of the word. -/
theorem eachRowHoldsExactlyOnItsCondition : Obligations.EachRowHoldsExactlyOnItsCondition := by
  intro S b
  simp only [decode_eq_ok_iff State.reset, selects_reset_iff, selects_nop_iff, selects_seekMark_iff,
    selects_seekShift_iff, selects_highAccept_iff, selects_highReject_iff, selects_low_iff,
    present_edge, present_syncState, present_awaitingHighByte, present_lastMarkerByte,
    ofBit_eq_seeking_iff, ofBit_eq_inFrame_iff, and_self]

/-- Settles O3: the row found first has the smallest priority number, and RESET and NOP have no other
condition than their bits. -/
theorem everySelectorTakesItsFirstRow : Obligations.EverySelectorTakesItsFirstRow := by
  refine ⟨fun S => ?_, fun S hrst => ?_, fun S hrst hvalid => ?_, by decide, by decide⟩
  · obtain ⟨o, ho⟩ := exists_firstHit S
    exact ⟨rowOf o, rowOf_mem_opTable o, hits_iff.mp ho.hits,
      fun r hr hhits => ho.prio_le hr (hits_iff.mpr hhits),
      by rw [rowOf_op, decode_of_firstHit ho], by simp⟩
  · obtain ⟨hreset, -⟩ := eachRowHoldsExactlyOnItsCondition S 0#8
    exact hreset.mpr hrst
  · obtain ⟨-, hnop, -⟩ := eachRowHoldsExactlyOnItsCondition S 0#8
    exact hnop.mpr ⟨hrst, hvalid⟩

/-! ### Decode of encode -/

theorem hits_encode {i : Instr} (hwf : i.wf = true) : (rowOf i.op).hits (encode i) = true := by
  cases i with
  | reset => exact EncodeHitsRow.reset hwf
  | nop => exact EncodeHitsRow.nop hwf
  | seekMark => exact EncodeHitsRow.seekMark hwf
  | seekShift b => exact EncodeHitsRow.seekShift b hwf
  | highAccept b => exact EncodeHitsRow.highAccept b hwf
  | highReject b => exact EncodeHitsRow.highReject b hwf
  | low b => exact EncodeHitsRow.low b hwf

theorem ignoredMask_and_mask (o : Op) : ignoredMask o &&& (rowOf o).mask = 0#20 := by
  cases o <;> decide

theorem encodeIn_eq_encode_or (dc : Selector) (i : Instr) :
    encodeIn dc i = encode i ||| (dc &&& ignoredMask i.op) := by
  simp [encode, encodeIn]

/-- R57: the ignored bits take no part in the match. -/
theorem hits_encodeIn (dc : Selector) {i : Instr} (hwf : i.wf = true) :
    (rowOf i.op).hits (encodeIn dc i) = true := by
  rw [hits_iff, encodeIn_eq_encode_or, BitVec.and_or_distrib_right, BitVec.and_assoc,
    ignoredMask_and_mask, hits_iff.mp (hits_encode hwf)]
  simp

/-- R57: SEEK_SHIFT ignores the lookback. -/
theorem selLmb_encodeIn_seekShift (dc : Selector) (b : Byte) :
    selLmb (encodeIn dc (.seekShift b)) = selLmb dc := by
  have hfree : ∀ j, j < 8 → (rowOf .seekShift).value.getLsbD (11 + j) = false ∧
      (ignoredMask .seekShift).getLsbD (11 + j) = true := by decide
  rw [eq_iff_bits]
  intro j hj
  obtain ⟨hvalue, hignored⟩ := hfree j hj
  simp only [selLmb, BitVec.getLsbD_extractLsb', getLsbD_encodeIn_high dc _ (11 + j) (by omega),
    Instr.op, hvalue, hignored, Bool.false_or, Bool.and_true]

/-- The row of the operation matches its word, which gives its condition but for what `admits` says of
SEEK_SHIFT and well-formedness of HIGH_REJECT; the word holds the byte of an operation that takes one. -/
theorem decode_encodeIn {dc : Selector} {i : Instr} (hwf : i.wf = true)
    (hadmits : admits dc i = true) : decode (encodeIn dc i) = .ok i := by
  have hhits := hits_encodeIn dc hwf
  have hbyte := selByte_encodeIn dc i
  obtain ⟨hreset, hnop, hmark, hshift, haccept, hreject, hlow⟩ :=
    eachRowHoldsExactlyOnItsCondition (encodeIn dc i) (operandByte i)
  cases i with
  | reset => exact hreset.mpr ((hits_reset _).symm.trans hhits)
  | nop => exact hnop.mpr (by simpa [Instr.op, hits_nop] using hhits)
  | seekMark => exact hmark.mpr (by simpa [Instr.op, hits_seekMark, and_assoc] using hhits)
  | seekShift b =>
    replace hbyte := hbyte (by simp [Instr.op, operandMask])
    have hnomark : ¬ (b = 0x01#8 ∧ selLmb (encodeIn dc (.seekShift b)) = 0x01#8) := by
      simpa [admits, selLmb_encodeIn_seekShift, imp_iff_not_or] using hadmits
    simp only [Instr.op, hits_seekShift, Bool.and_eq_true, Bool.not_eq_true'] at hhits
    obtain ⟨⟨hrst, hvalid⟩, hsync⟩ := hhits
    exact hshift.mpr ⟨hrst, hvalid, hsync, hbyte, hnomark⟩
  | highAccept b =>
    replace hbyte := hbyte (by simp [Instr.op, operandMask])
    exact haccept.mpr
      (by simpa [Instr.op, hits_highAccept, and_assoc, hbyte, operandByte] using hhits)
  | highReject b =>
    replace hbyte := hbyte (by simp [Instr.op, operandMask])
    have hrange : 2 ≤ b.toNat := of_decide_eq_true hwf
    exact hreject.mpr
      (by simpa [Instr.op, hits_highReject, and_assoc, hbyte, operandByte, hrange] using hhits)
  | low b =>
    replace hbyte := hbyte (by simp [Instr.op, operandMask])
    exact hlow.mpr (by simpa [Instr.op, hits_low, and_assoc, hbyte, operandByte] using hhits)

/-- A lookback of 0x00 completes no marker. -/
theorem admits_zero (i : Instr) : admits 0#20 i = true := by
  cases i with
  | seekShift b => simp [admits, selLmb]
  | _ => rfl

/-- Settles O5: the operation's row is the first to match, whatever stands in the ignored bits. -/
theorem decodingAnEncodedOperationGivesItBack :
    Obligations.DecodingAnEncodedOperationGivesItBack :=
  ⟨fun _ _ hwf hadmits => decode_encodeIn hwf hadmits,
    fun i hwf => decode_encodeIn hwf (admits_zero i)⟩

/-! ### Encode of decode -/

theorem setWidth_selByte (S : Selector) : (selByte S).setWidth 20 = S &&& 0x000FF#20 := by
  simp only [eq_iff_bits, Nat.forall_lt_succ_right, selByte]
  simp

/-- The fixed bits, the byte and the ignored bits of a word that matches a row are the whole word. -/
theorem encodeIn_buildInstr {o : Op} {S : Selector} (h : S &&& (rowOf o).mask = (rowOf o).value) :
    encodeIn S (buildInstr o S) = S := by
  have hcover : ∃ m, operandBits (buildInstr o S) = S &&& m ∧
      (rowOf o).mask ||| m ||| ignoredMask o = BitVec.allOnes 20 := by
    cases o with
    | reset => exact ⟨0#20, by simp [operandBits, buildInstr], by decide⟩
    | nop => exact ⟨0#20, by simp [operandBits, buildInstr], by decide⟩
    | seekMark => exact ⟨0#20, by simp [operandBits, buildInstr], by decide⟩
    | _ => exact ⟨0x000FF#20, setWidth_selByte S, by decide⟩
  obtain ⟨m, hm, hall⟩ := hcover
  rw [encodeIn, buildInstr_op, hm, ← h, ← BitVec.and_or_distrib_left, ← BitVec.and_or_distrib_left,
    hall, BitVec.and_allOnes]

theorem eq_buildInstr_of_decode {S : Selector} {i : Instr} (h : decode S = .ok i) :
    i = buildInstr i.op S :=
  Except.ok.inj (h.symm.trans (decode_of_firstHit (firstHit_of_decode h)))

/-- R68, R72, R73: the condition of its row gives an operation the operand its rule allows. -/
theorem wf_and_admits_of_decode {S : Selector} {i : Instr} (h : decode S = .ok i) :
    i.wf = true ∧ admits S i = true := by
  cases (decode_eq_ok_iff State.reset).mp h with
  | seekShift _ _ _ hbyte => exact ⟨rfl, by simpa [admits, imp_iff_not_or] using hbyte⟩
  | highAccept _ _ _ _ hbyte => exact ⟨decide_eq_true hbyte, rfl⟩
  | highReject _ _ _ _ hbyte => exact ⟨decide_eq_true hbyte, rfl⟩
  | _ => exact ⟨rfl, rfl⟩

/-- Settles O6: the word matches the row of its operation, whose operand is the word's byte. -/
theorem encodingADecodedSelectorGivesItBack : Obligations.EncodingADecodedSelectorGivesItBack := by
  intro S i h
  obtain ⟨hwf, hadmits⟩ := wf_and_admits_of_decode h
  refine ⟨hwf, hadmits, ?_⟩
  rw [eq_buildInstr_of_decode h]
  exact encodeIn_buildInstr (hits_iff.mp (firstHit_of_decode h).hits)

/-! ### The placed word in a step -/

/-- R61: a step performs the operation its selector word decodes to, with the sampled edge gone. -/
theorem step_of_operation {s : State} {i : Instr} (h : s.operation = .ok i) :
    step s = exec i s.afterEdge := by
  rw [step, fetch_ok s i h]

theorem withFetchWord_of_lt (s : State) {w : Nat} (hw : w < 2 ^ 20) :
    s.withFetchWord 24 w = s.present (BitVec.ofNat 20 w) := by
  rw [State.withFetchWord, Nat.mod_eq_of_lt (by omega)]

theorem decode_of_decodeTableWord {w : Nat} {i : Instr} (hw : w < 2 ^ 20)
    (h : decodeTableWord 24 w = some i) : decode (BitVec.ofNat 20 w) = .ok i := by
  rw [decodeTableWord, Nat.mod_eq_of_lt (by omega), decodeNat, if_pos hw] at h
  cases hdecode : decode (BitVec.ofNat 20 w) <;> simp_all

/-- Settles O7: the placed word is the one formed, and the edge that carried it is gone after. -/
theorem aPlacedWordIsTheNextSelector : Obligations.APlacedWordIsTheNextSelector := by
  intro s w hw
  rw [withFetchWord_of_lt s hw]
  refine ⟨selectorOf_present s _, fun i hi => ?_⟩
  have hop := (operation_present s _).trans (decode_of_decodeTableWord hw hi)
  rw [step_of_operation hop]
  cases hsync : selSync (BitVec.ofNat 20 w) <;>
    simp [State.present, State.afterEdge, SyncState.ofBit, hsync]

/-! ### The payload (R52, R53) -/

/-- R52: the two payload bytes are the accumulator's two bytes, high byte first. -/
theorem addLow_highPart (h l : Byte) : addLow (highPart h) l = h ++ l := by
  have hh : h.toNat < 256 := h.isLt
  have hl : l.toNat < 256 := l.isLt
  apply BitVec.eq_of_toNat_eq
  rw [BitVec.toNat_append, ← Nat.shiftLeft_add_eq_or_of_lt (by omega), Nat.shiftLeft_eq, addLow,
    BitVec.toNat_add, highPart_toNat, zext16, BitVec.toNat_setWidth]
  omega

/-- R53: the payload bytes of the frame of `v` are assembled to `v`. -/
theorem addLow_highPart_frame (v : Word16) :
    addLow (highPart ((v >>> 8).setWidth 8)) (v.setWidth 8) = v := by
  rw [addLow_highPart, eq_iff_bits]
  intro j hj
  rw [BitVec.getLsbD_append]
  split
  case isTrue hlow => simp [hlow]
  case isFalse hhigh => simp [show j - 8 < 8 by omega, show 8 + (j - 8) = j by omega]

theorem toNat_frame_high (v : Word16) : ((v >>> 8).setWidth 8 : Byte).toNat = v.toNat / 256 := by
  have hv : v.toNat < 65536 := v.isLt
  rw [BitVec.toNat_setWidth, BitVec.toNat_ushiftRight, Nat.shiftRight_eq_div_pow]
  omega

/-- The run of a schedule, one edge at a time. -/
theorem run_given_cons {s : State} {e : InputEdge} {i : Instr} (h : Selects s.decoder e i) (n : Nat)
    (es : List InputEdge) :
    core.run (n + 1) (given s (e :: es)) = core.run n (given (perform i s) es) := by
  have hstep : core.step (given s (e :: es)) = .next (given (perform i s) es) := step_given_cons h es
  simp only [Host.Core.run, hstep]

/-- R52: in HIGH, an accepted high byte and the next byte complete the frame. -/
theorem run_payload {s : State} {h : Byte} (l : Byte) (hhigh : s.decoder.control = .high)
    (hle : h.toNat ≤ 1) (n : Nat) (es : List InputEdge) :
    core.run (n + 2) (given s (byteEdge h :: byteEdge l :: es)) =
      core.run n (given (perform (.low l) (perform (.highAccept h) s)) es) := by
  obtain ⟨hsync, hawait⟩ := (control_high _).mp hhigh
  have haccept : Selects s.decoder (byteEdge h) (.highAccept h) :=
    .highAccept rfl rfl hsync hawait hle
  have hlow : Selects (perform (.highAccept h) s).decoder (byteEdge l) (.low l) :=
    .low rfl rfl hsync rfl
  rw [run_given_cons haccept, run_given_cons hlow]

/-- R67, R68: from a clean SEEK the two marker bytes open a frame. -/
theorem run_marker {s : State} (hclean : CleanSeek s) (n : Nat) (es : List InputEdge) :
    core.run (n + 2) (given s (byteEdge 0x01#8 :: byteEdge 0x01#8 :: es)) =
      core.run n (given (perform .seekMark (perform (.seekShift 0x01#8) s)) es) := by
  obtain ⟨hsync, -, hlookback⟩ := hclean
  have hshift : Selects s.decoder (byteEdge 0x01#8) (.seekShift 0x01#8) :=
    .seekShift rfl rfl hsync fun hmark => hlookback hmark.2
  have hmark : Selects (perform (.seekShift 0x01#8) s).decoder (byteEdge 0x01#8) .seekMark :=
    .seekMark rfl rfl hsync rfl rfl
  rw [run_given_cons hshift, run_given_cons hmark]

/-- Settles O30: `rawValue` is the high byte before the low byte, and fits nine bits. -/
theorem payloadIsAssembledBigEndian : Obligations.PayloadIsAssembledBigEndian := by
  intro s h l es hhigh hle
  have hsum : (addLow (highPart h) l).toNat = 256 * h.toNat + l.toNat := by
    rw [addLow_toNat _ _ (by rw [highPart_toNat]; omega), highPart_toNat]
  have hbound : (addLow (highPart h) l).toNat ≤ 511 := addLow_le_511 l (highPart_of_le_one hle)
  refine ⟨_, run_payload l hhigh hle 0 es, hsum, hbound, highBits_eq_zero_of_le_511 hbound, ?_, ?_⟩
  · change (addLow (highPart h) l).getLsbD 8 = _
    rw [addLow_highPart, BitVec.getLsbD_append]
    rfl
  · change (addLow (highPart h) l).extractLsb' 0 8 = l
    rw [addLow_highPart, BitVec.extractLsb'_append_eq_right]

/-- Settles O31: the marker opens the frame; the high byte `v / 256` is at most 1 exactly if `v` is at
most 511. -/
theorem valuesUpTo511HaveAnAcceptedFrame : Obligations.ValuesUpTo511HaveAnAcceptedFrame := by
  refine ⟨fun s v hclean hle => ?_, fun s v hclean hge => ?_⟩
  · have hhigh : ((v >>> 8).setWidth 8 : Byte).toNat ≤ 1 := by rw [toNat_frame_high]; omega
    exact ⟨_, (run_marker hclean 2 _).trans (run_payload _ rfl hhigh 0 []), rfl,
      addLow_highPart_frame v, addLow_highPart_frame v⟩
  · have hhigh : 2 ≤ ((v >>> 8).setWidth 8 : Byte).toNat := by rw [toNat_frame_high]; omega
    exact ⟨_, run_marker hclean 0 _,
      operation_eq_ok_iff.mpr (.highReject rfl rfl rfl rfl hhigh)⟩

/-! ### The selector word of a step (R55) -/

/-- Settles O1: the decoder run on each word. -/
theorem selectorWordsDecodeAsTabulated : Obligations.SelectorWordsDecodeAsTabulated := by
  unfold Obligations.SelectorWordsDecodeAsTabulated
  decide

/-- R64: while `in_valid` is 0 the byte on `in_byte` takes no part in the selection. -/
theorem Selects.of_unsampled {d : DecoderState} {e : InputEdge} {i : Instr} (h : Selects d e i)
    (hvalid : e.inValid = false) (x : Byte) : Selects d { e with inByte := x } i := by
  cases h with
  | reset hrst => exact .reset hrst
  | nop hrst => exact .nop hrst hvalid
  | _ => exact absurd ‹e.inValid = true› (by simp [hvalid])

/-- Settles O2: the fields of the word a step forms. -/
theorem selectorWordHasTheTabulatedLayout : Obligations.SelectorWordHasTheTabulatedLayout := by
  intro d e
  have hbit : d.syncState.bit = decide (d.syncState = .inFrame) := by cases d.syncState <;> rfl
  refine ⟨selRst_selectorOf d e, selLmb_selectorOf d e, selValid_selectorOf d e,
    (selSync_selectorOf d e).trans hbit, selAhb_selectorOf d e, selByte_selectorOf d e,
    fun _ _ => rfl, fun hvalid x => ?_⟩
  obtain ⟨i, hi⟩ := exists_selects d e
  rw [decode_selectorOf (hi.of_unsampled hvalid x), decode_selectorOf hi]

end Sys2Proof.Proofs

namespace Sys2Proof.Proofs

open Sys2Proof.Machine Sys2Proof.Safety Sys2Proof.Laws

/-! ## The statements of spec/40_onbyte.md

A step performs the operation selected by its edge (R61), which is what the pseudocode of R60 and R63
does; a NOP (R66) leaves no trace in any later step, and an unsampled byte (R64) selects nothing. -/

/-! ### The sampled edge -/

theorem afterEdge_cons {s : State} {e : InputEdge} {es : List InputEdge} (h : s.inputs = e :: es) :
    s.afterEdge = { s with inputs := es } := by
  simp [State.afterEdge, h]

theorem edge_nil {s : State} (h : s.inputs = []) : s.edge = idleEdge := by
  simp [State.edge, h]

theorem afterEdge_nil {s : State} (h : s.inputs = []) : s.afterEdge = s := by
  rw [State.afterEdge, h, List.tail_nil, ← h]

/-- Settles O8: a step performs what `State.operation` answers, with the sampled edge gone. -/
theorem stepPerformsTheDecodedOperation : Obligations.StepPerformsTheDecodedOperation := by
  refine ⟨fun s e es i hs hi => ?_, fun s i hs hi => ?_⟩
  · rw [← edge_cons s e es hs] at hi
    rw [step_of_operation hi, afterEdge_cons hs]
  · rw [← edge_nil hs] at hi
    rw [step_of_operation hi, afterEdge_nil hs]

/-! ### The normative step function (R60, R63) -/

/-- R60: the branch the pseudocode takes is the operation selected, with its decoder and its event. -/
theorem refStep_of_selects {d : DecoderState} {e : InputEdge} {i : Instr} (h : Selects d e i) :
    refStep d e.rst e.inValid e.inByte = (decoderAfter i d, eventOf i d) := by
  cases h with
  | reset hrst => simp [refStep, hrst, decoderAfter, eventOf]
  | nop hrst hvalid => simp [refStep, hrst, hvalid, decoderAfter, eventOf]
  | seekMark hrst hvalid hsync hbyte hlookback =>
    have hmark := (isMarker_iff _ _).mpr ⟨hbyte, hlookback⟩
    simp [refStep, hrst, hvalid, hsync, hmark, refSeekMark, decoderAfter, eventOf]
  | seekShift hrst hvalid hsync hbyte =>
    have hmark := mt (isMarker_iff _ _).mp hbyte
    simp [refStep, hrst, hvalid, hsync, hmark, refSeekShift, decoderAfter, eventOf]
  | highAccept hrst hvalid hsync hawait hbyte =>
    have hrange := (validHigh_iff _).mpr hbyte
    simp [refStep, hrst, hvalid, hsync, hawait, hrange, refHighAccept, decoderAfter, eventOf,
      highPart, zext16]
  | highReject hrst hvalid hsync hawait hbyte =>
    have hrange := mt (validHigh_iff _).mp (Nat.not_le_of_lt hbyte)
    simp [refStep, hrst, hvalid, hsync, hawait, hrange, refHighReject, decoderAfter, eventOf,
      highPart, zext16]
  | low hrst hvalid hsync hawait =>
    simp only [refStep, hrst, hvalid, hsync, hawait]
    rfl

/-- R63: what the edge does to the registers is what the operation selected does. -/
theorem refEdge_of_selects {s : State} {e : InputEdge} {i : Instr} (h : Selects s.decoder e i) :
    refEdge s e = perform i s := by
  have hrst : e.rst = true ↔ i = .reset := by
    cases h <;> simp [*]
  rw [refEdge, refStep_of_selects h]
  by_cases hi : i = .reset
  · simp [hi, hrst.mpr hi, perform, eventOf]
  · simp [hi, mt hrst.mp hi, perform]

/-- Settles O10: both sides perform the operation selected; with no edge waiting it is NOP. -/
theorem stepRefinesTheNormativeStepFunction : Obligations.StepRefinesTheNormativeStepFunction := by
  refine ⟨fun s e es hs => ?_, fun s x hs => ?_⟩
  · obtain ⟨i, hi⟩ := exists_selects s.decoder e
    rw [refEdge_of_selects hi]
    rw [← edge_cons s e es hs] at hi
    rw [step_of_selects hi, afterEdge_cons hs]
    rfl
  · have hidle : Selects s.decoder s.edge .nop := by
      rw [edge_nil hs]
      exact .nop rfl rfl
    have hquiet : Selects s.decoder (quietEdge x) .nop := .nop rfl rfl
    rw [step_of_selects hidle, afterEdge_nil hs, refEdge_of_selects hquiet]

/-! ### Totality (R62) -/

theorem run_succ {s t : State} (h : step s = .next t) (n : Nat) :
    core.run (n + 1) s = core.run n t := by
  have hstep : core.step s = .next t := h
  simp only [Host.Core.run, hstep]

theorem exists_step (s : State) : ∃ t, step s = .next t := by
  obtain ⟨i, hi⟩ := exists_selects s.decoder s.edge
  exact ⟨_, step_of_selects hi⟩

theorem exists_run (n : Nat) (s : State) : ∃ t, core.run n s = .next t := by
  induction n generalizing s with
  | zero => exact ⟨s, rfl⟩
  | succ n ih =>
    obtain ⟨t, ht⟩ := exists_step s
    rw [run_succ ht]
    exact ih t

/-- Settles O9: some operation is always selected, and each answers a next state. -/
theorem everyStepAnswersANextState : Obligations.EveryStepAnswersANextState :=
  ⟨exists_step, exists_run⟩

/-! ### The transition table (R65) -/

/-- What a row of R65 is about: the operation performed, the decoder it leaves and its event. -/
theorem transition_of_selects {s t : State} {i : Instr} (hi : Selects s.decoder s.edge i)
    (h : step s = .next t) :
    s.operation = .ok i ∧ t.decoder = decoderAfter i s.decoder ∧ t.event = eventOf i s.decoder := by
  rw [step_of_selects hi] at h
  obtain rfl := Host.Outcome.next.inj h
  exact ⟨operation_eq_ok_iff.mpr hi, rfl, perform_event ..⟩

/-- R77: LOW answers an event exactly if the new sum differs from the latch. -/
theorem eventOf_low_ne_none (b : Byte) (d : DecoderState) :
    eventOf (.low b) d ≠ none ↔ d.rawValue + b.setWidth 16 ≠ d.lastEmittedValue :=
  Option.isSome_iff_ne_none.symm.trans (dedupEvent_isSome _ _)

/-- Settles O22: each row of R65 fixes the operation selected, which fixes the rest of the row. -/
theorem controlFollowsTheTransitionTable : Obligations.ControlFollowsTheTransitionTable := by
  intro s t h
  refine ⟨fun hrst => ?_, fun hrst hvalid => ?_, fun hrst hvalid hseek => ?_,
    fun hrst hvalid hhigh => ?_, fun hrst hvalid hlow => ?_⟩
  · obtain ⟨hop, hd, hev⟩ := transition_of_selects (.reset hrst) h
    exact ⟨hop, by rw [hd]; rfl, hev⟩
  · obtain ⟨hop, hd, hev⟩ := transition_of_selects (.nop hrst hvalid) h
    exact ⟨hop, by rw [hd]; rfl, hev⟩
  · have hsync := (control_seek _).mp hseek
    split
    case isTrue hmark =>
      obtain ⟨hbyte, hlookback⟩ := hmark
      obtain ⟨hop, hd, hev⟩ :=
        transition_of_selects (.seekMark hrst hvalid hsync hbyte hlookback) h
      exact ⟨hev, hop, by rw [hd]; rfl⟩
    case isFalse hmark =>
      obtain ⟨hop, hd, hev⟩ := transition_of_selects (.seekShift hrst hvalid hsync hmark) h
      exact ⟨hev, hop, by rw [hd]; exact (control_seek _).mpr hsync⟩
  · obtain ⟨hsync, hawait⟩ := (control_high _).mp hhigh
    split
    case isTrue hle =>
      obtain ⟨hop, hd, hev⟩ := transition_of_selects (.highAccept hrst hvalid hsync hawait hle) h
      exact ⟨hev, hop, by rw [hd]; exact (control_low _).mpr ⟨hsync, rfl⟩⟩
    case isFalse hgt =>
      obtain ⟨hop, hd, hev⟩ :=
        transition_of_selects (.highReject hrst hvalid hsync hawait (Nat.lt_of_not_le hgt)) h
      exact ⟨hev, hop, by rw [hd]; rfl⟩
  · obtain ⟨hsync, hawait⟩ := (control_low _).mp hlow
    obtain ⟨hop, hd, hev⟩ := transition_of_selects (.low hrst hvalid hsync hawait) h
    exact ⟨hop, by rw [hd]; rfl, by rw [hev]; exact eventOf_low_ne_none ..⟩

/-! ### NOP (R66) -/

theorem given_event (s : State) (es : List InputEdge) : (given s es).event = s.event := rfl

/-- What a schedule publishes: the event of its first edge, then the rest. -/
theorem published_given_cons {s : State} {e : InputEdge} {i : Instr} (h : Selects s.decoder e i)
    (n : Nat) (es : List InputEdge) :
    published (n + 1) (given s (e :: es)) =
      (eventOf i s.decoder).toList ++ published n (given (perform i s) es) := by
  rw [published_succ (step_given_cons h es), given_event, perform_event]

/-- No operation reads `pub_valid`, the one register a NOP writes. -/
theorem perform_perform_nop (i : Instr) (s : State) :
    perform i (perform .nop s) = perform i s := rfl

/-- A NOP leaves no trace in the next step. -/
theorem step_given_perform_nop (s : State) (es : List InputEdge) :
    step (given (perform .nop s) es) = step (given s es) := by
  obtain ⟨i, hi⟩ := exists_selects s.decoder (given s es).edge
  rw [step_of_selects (s := given s es) hi, step_of_selects (s := given (perform .nop s) es) hi]
  rfl

theorem published_given_perform_nop (n : Nat) (s : State) (es : List InputEdge) :
    published n (given (perform .nop s) es) = published n (given s es) := by
  cases n with
  | zero => rfl
  | succ n => rw [published, published, step_given_perform_nop]

/-- A run after a NOP differs from one without it at most in `pub_valid`, and only if it has no step. -/
theorem exists_run_without_nop {n : Nat} {s t : State} {es : List InputEdge}
    (h : core.run n (given (perform .nop s) es) = .next t) :
    ∃ t', core.run n (given s es) = .next t' ∧ t.decoder = t'.decoder ∧ t.pubRaw = t'.pubRaw := by
  cases n with
  | zero =>
    obtain rfl := Host.Outcome.next.inj h
    exact ⟨_, rfl, rfl, rfl⟩
  | succ n =>
    obtain ⟨u, hu⟩ := exists_step (given s es)
    rw [run_succ ((step_given_perform_nop s es).trans hu)] at h
    exact ⟨t, (run_succ hu n).trans h, rfl, rfl⟩

theorem selects_quietEdge (d : DecoderState) (x : Byte) : Selects d (quietEdge x) .nop :=
  .nop rfl rfl

theorem published_quiet (n : Nat) (s : State) (xs : List Byte) (es : List InputEdge) :
    published (xs.length + n) (given s (xs.map quietEdge ++ es)) = published n (given s es) := by
  induction xs with
  | nil => simp
  | cons x xs ih =>
    rw [List.length_cons, Nat.add_right_comm, List.map_cons, List.cons_append,
      published_given_cons (selects_quietEdge _ x), published_given_perform_nop, ih]
    rfl

/-- Idle edges after a NOP do nothing at all. -/
theorem run_quiet_after_nop (n : Nat) (s : State) (xs : List Byte) (es : List InputEdge) :
    core.run (xs.length + n) (given (perform .nop s) (xs.map quietEdge ++ es)) =
      core.run n (given (perform .nop s) es) := by
  induction xs with
  | nil => simp
  | cons x xs ih =>
    rw [List.length_cons, Nat.add_right_comm, List.map_cons, List.cons_append,
      run_given_cons (selects_quietEdge _ x), perform_perform_nop, ih]

/-- Settles O15: the first idle edge writes `pub_valid`, and those after it nothing. -/
theorem nopChangesNoDecoderField : Obligations.NopChangesNoDecoderField := by
  refine ⟨exec_eq .nop, fun s e es hs hrst hvalid => ?_, fun s xs es hxs => ⟨?_, ?_⟩⟩
  · have hop : s.operation = .ok .nop :=
      operation_eq_ok_iff.mpr (.nop (by rwa [edge_cons s e es hs]) (by rwa [edge_cons s e es hs]))
    exact ⟨hop, by rw [step_of_operation hop, afterEdge_cons hs]⟩
  · obtain ⟨x, xs, rfl⟩ := List.exists_cons_of_ne_nil hxs
    rw [List.length_cons, List.map_cons, List.cons_append, run_given_cons (selects_quietEdge _ x)]
    exact run_quiet_after_nop 0 s xs es
  · exact published_quiet 0 s xs es

/-! ### Idle edges in a schedule -/

/-- An edge that is no NOP. -/
def isActive (e : InputEdge) : Bool := e.rst || e.inValid

theorem selects_nop_of_not_isActive {e : InputEdge} (d : DecoderState) (h : ¬ isActive e = true) :
    Selects d e .nop := by
  obtain ⟨hrst, hvalid⟩ : e.rst = false ∧ e.inValid = false := by simpa [isActive] using h
  exact .nop hrst hvalid

/-- R66: an idle edge publishes nothing and can be left out. -/
theorem published_filter_isActive (s : State) (es : List InputEdge) :
    published es.length (given s es) =
      published (es.filter isActive).length (given s (es.filter isActive)) := by
  induction es generalizing s with
  | nil => rfl
  | cons e es ih =>
    by_cases he : isActive e = true
    · obtain ⟨i, hi⟩ := exists_selects s.decoder e
      rw [List.filter_cons_of_pos he, List.length_cons, List.length_cons,
        published_given_cons hi, published_given_cons hi, ih]
    · rw [List.filter_cons_of_neg he, List.length_cons,
        published_given_cons (selects_nop_of_not_isActive _ he), ih, published_given_perform_nop]
      rfl

theorem run_filter_isActive (s : State) (es : List InputEdge) :
    ∃ t t', core.run es.length (given s es) = .next t ∧
      core.run (es.filter isActive).length (given s (es.filter isActive)) = .next t' ∧
      t.decoder = t'.decoder ∧ t.pubRaw = t'.pubRaw := by
  induction es generalizing s with
  | nil => exact ⟨_, _, rfl, rfl, rfl, rfl⟩
  | cons e es ih =>
    by_cases he : isActive e = true
    · obtain ⟨i, hi⟩ := exists_selects s.decoder e
      rw [List.filter_cons_of_pos he, List.length_cons, List.length_cons, run_given_cons hi,
        run_given_cons hi]
      exact ih (perform i s)
    · rw [List.filter_cons_of_neg he, List.length_cons,
        run_given_cons (selects_nop_of_not_isActive _ he)]
      obtain ⟨t, t', ht, ht', hdecoder, hraw⟩ := ih (perform .nop s)
      obtain ⟨u, hu, hdecoder', hraw'⟩ := exists_run_without_nop ht'
      exact ⟨t, u, ht, hu, hdecoder.trans hdecoder', hraw.trans hraw'⟩

/-- Settles O44, by induction over the schedule: an idle edge is a NOP, which no later step sees. -/
theorem idleEdgesChangeNoOutcome : Obligations.IdleEdgesChangeNoOutcome :=
  fun s es => ⟨published_filter_isActive s es, run_filter_isActive s es⟩

/-! ### The unsampled byte (R64) -/

/-- What the block samples of an edge. -/
def sampled (e : InputEdge) : Bool × Bool × Byte :=
  (e.rst, e.inValid, if e.inValid then e.inByte else 0x00#8)

/-- R64: edges that differ only in an unsampled byte select the same operation. -/
theorem Selects.of_sampled_eq {d : DecoderState} {e e' : InputEdge} {i : Instr} (h : Selects d e i)
    (hsampled : sampled e = sampled e') : Selects d e' i := by
  obtain ⟨rst, valid, b⟩ := e
  obtain ⟨rst', valid', b'⟩ := e'
  obtain ⟨rfl, rfl, hbyte⟩ : rst = rst' ∧ valid = valid' ∧ _ := by simpa [sampled] using hsampled
  cases valid with
  | false => exact h.of_unsampled rfl b'
  | true =>
    obtain rfl : b = b' := by simpa using hbyte
    exact h

/-- Settles O43, by induction on the number of steps: both schedules perform the same operations. -/
theorem anUnsampledByteHasNoEffect : Obligations.AnUnsampledByteHasNoEffect := by
  intro s es es' n hmap
  change es.map sampled = es'.map sampled at hmap
  induction n generalizing s es es' with
  | zero => exact ⟨rfl, _, _, rfl, rfl, rfl, rfl, rfl⟩
  | succ n ih =>
    cases es with
    | nil =>
      obtain rfl : es' = [] := List.map_eq_nil_iff.mp hmap.symm
      obtain ⟨t, ht⟩ := exists_run (n + 1) (given s [])
      exact ⟨rfl, t, t, ht, ht, rfl, rfl, rfl⟩
    | cons e es =>
      obtain ⟨e', es', rfl, he, hes⟩ := List.map_eq_cons_iff.mp hmap.symm
      obtain ⟨i, hi⟩ := exists_selects s.decoder e
      have hi' := hi.of_sampled_eq he.symm
      rw [published_given_cons hi, published_given_cons hi', run_given_cons hi, run_given_cons hi']
      obtain ⟨hpub, hrun⟩ := ih (perform i s) es es' hes.symm
      exact ⟨by rw [hpub], hrun⟩

end Sys2Proof.Proofs

namespace Sys2Proof.Proofs

open Sys2Proof.Machine Sys2Proof.Safety Sys2Proof.Laws

/-! ## The statements of spec/41_marker_seek.md

SEEK_MARK (R67) and SEEK_SHIFT (R68) are the two operations of Phase A. The bytes of a frame stay
out of the lookback (R69), so a marker needs a 0x01 shifted in just before (R70). -/

/-- R61: the operation selected at the first waiting edge, and the step that performs it. -/
theorem operation_and_step_of_selects {s : State} {e : InputEdge} {es : List InputEdge} {i : Instr}
    (hs : s.inputs = e :: es) (h : Selects s.decoder e i) :
    s.operation = .ok i ∧ step s = exec i { s with inputs := es } := by
  rw [← edge_cons s e es hs] at h
  have hop := operation_eq_ok_iff.mpr h
  exact ⟨hop, by rw [step_of_operation hop, afterEdge_cons hs]⟩

/-! ### SEEK_MARK (R67) -/

/-- R67: with 0x01 in the lookback, a byte 0x01 is the second marker byte. -/
theorem selects_seekMark_of_lookback {d : DecoderState} (hsync : d.syncState = .seeking)
    (hlookback : d.lastMarkerByte = 0x01#8) : Selects d (byteEdge 0x01#8) .seekMark :=
  .seekMark rfl rfl hsync rfl hlookback

/-- Settles O16: SEEK_MARK leaves control in HIGH, where a third 0x01 is a plausible high byte. -/
theorem seekMarkOpensTheFrame : Obligations.SeekMarkOpensTheFrame := by
  refine ⟨exec_eq .seekMark, fun s es hs hsync hlookback => ?_, fun s es hs hsync hlookback => ?_⟩
  · exact operation_and_step_of_selects hs (selects_seekMark_of_lookback hsync hlookback)
  · obtain ⟨-, hstep⟩ :=
      operation_and_step_of_selects hs (selects_seekMark_of_lookback hsync hlookback)
    exact ⟨_, hstep.trans (exec_eq ..),
      operation_eq_ok_iff.mpr (selects_highAccept_iff.mpr ⟨rfl, rfl, rfl, rfl, rfl, by decide⟩)⟩

/-! ### SEEK_SHIFT (R68) -/

/-- Settles O17: in SEEK a byte that completes no marker selects SEEK_SHIFT. -/
theorem seekShiftStoresTheLookback : Obligations.SeekShiftStoresTheLookback :=
  ⟨fun s b => exec_eq (.seekShift b) s,
    fun _ _ _ hs hsync hmark => operation_and_step_of_selects hs (.seekShift rfl rfl hsync hmark)⟩

/-! ### Payload bytes (R69) -/

/-- R69: outside SEEK and without `rst`, the operation is none of Phase A and keeps the lookback. -/
theorem Selects.keeps_lookback_in_frame {d : DecoderState} {e : InputEdge} {i : Instr}
    (h : Selects d e i) (hframe : d.syncState ≠ .seeking) (hrst : e.rst = false) :
    i ≠ .seekMark ∧ (∀ b, i ≠ .seekShift b) ∧
      (decoderAfter i d).lastMarkerByte = d.lastMarkerByte := by
  cases h with
  | reset hrst' => exact absurd hrst' (by simp [hrst])
  | seekMark _ _ hsync => exact absurd hsync hframe
  | seekShift _ _ hsync => exact absurd hsync hframe
  | _ => exact ⟨nofun, nofun, rfl⟩

/-- Settles O23: the step performs the operation selected, which is none of Phase A. -/
theorem payloadBytesNeverReachTheLookback : Obligations.PayloadBytesNeverReachTheLookback := by
  intro s t h hcontrol hrst
  obtain ⟨i, hi, rfl⟩ := step_eq_next_iff.mp h
  obtain ⟨hmark, hshift, hlookback⟩ :=
    hi.keeps_lookback_in_frame (mt (control_seek _).mpr hcontrol) hrst
  rw [operation_eq_ok_iff.mpr hi]
  exact ⟨by simpa using hmark, by simpa using hshift, hlookback⟩

/-! ### A marker needs a just shifted 0x01 (R70) -/

/-- R70, R29: only a SEEK_SHIFT of 0x01 leaves SEEK with 0x01 in the lookback. HIGH_REJECT and LOW
return to SEEK with the frame's lookback 0x00. -/
theorem Selects.awaits_second_marker_iff {d : DecoderState} {e : InputEdge} {i : Instr}
    (h : Selects d e i) (hinv : d.syncState = .inFrame → d.lastMarkerByte = 0x00#8)
    (hnop : i ≠ .nop) :
    (decoderAfter i d).syncState = .seeking ∧ (decoderAfter i d).lastMarkerByte = 0x01#8 ↔
      i = .seekShift 0x01#8 := by
  cases h with
  | reset => simp [decoderAfter, DecoderState.reset]
  | nop => exact absurd rfl hnop
  | seekMark => simp [decoderAfter]
  | seekShift _ _ hsync => simp [decoderAfter, hsync]
  | highAccept _ _ hsync => simp [decoderAfter, hsync]
  | highReject _ _ hsync => simp [decoderAfter, hinv hsync]
  | low _ _ hsync => simp [decoderAfter, hinv hsync]

/-- R66: a run over idle edges leaves the decoder alone and stops before the edges behind them. -/
theorem decoder_and_inputs_of_run_quiet {s t : State} {xs : List Byte} {es : List InputEdge}
    (h : core.run xs.length (given s (xs.map quietEdge ++ es)) = .next t) :
    t.decoder = s.decoder ∧ t.inputs = es := by
  induction xs generalizing s with
  | nil =>
    obtain rfl := Host.Outcome.next.inj h
    exact ⟨rfl, rfl⟩
  | cons x xs ih =>
    rw [List.length_cons, List.map_cons, List.cons_append,
      run_given_cons (selects_quietEdge _ x)] at h
    exact ih (s := perform .nop s) h

/-- Settles O24: the idle edges keep what the first step left in `syncState` and in the lookback. -/
theorem aMarkerNeedsAJustShiftedOne : Obligations.AMarkerNeedsAJustShiftedOne := by
  intro s t i e e' xs es hinv hs hop hnop hrun
  obtain ⟨-, hlookback, -⟩ := hinv
  have hi : Selects s.decoder e i := edge_cons s _ _ hs ▸ operation_eq_ok_iff.mp hop
  have hgiven : given s (e :: (xs.map quietEdge ++ e' :: es)) = s := by rw [← hs]; rfl
  rw [← hgiven, run_given_cons hi] at hrun
  obtain ⟨hdecoder, hinputs⟩ := decoder_and_inputs_of_run_quiet hrun
  rw [operation_eq_ok_iff, selects_seekMark_iff, edge_cons t e' es hinputs, hdecoder,
    perform_decoder, ← hi.awaits_second_marker_iff hlookback hnop]
  tauto

end Sys2Proof.Proofs

namespace Sys2Proof.Proofs

open Sys2Proof.Machine Sys2Proof.Safety Sys2Proof.Laws

/-! ## The statements of spec/42_frame_assembly.md

The high byte is range-checked (R71) and either taken (R72) or refused with its frame (R73); the low
byte, of any value, completes the frame (R74). -/

/-! ### The operation on a presented byte -/

theorem given_of_inputs {s : State} {es : List InputEdge} (h : s.inputs = es) : given s es = s := by
  rw [← h]
  rfl

/-- R56, R57: with `e` the first edge presented, the operation is the one `e` selects. -/
theorem operation_given_cons_iff {s : State} {e : InputEdge} {es : List InputEdge} {i : Instr} :
    (given s (e :: es)).operation = .ok i ↔ Selects s.decoder e i :=
  operation_eq_ok_iff (s := given s (e :: es))

/-! ### The range check (R71) -/

/-- R52, R76: the high byte's part of the value, as a 16-bit word. -/
theorem highPart_eq_ofNat (b : Byte) : highPart b = BitVec.ofNat 16 (256 * b.toNat) := by
  rw [← highPart_toNat, BitVec.ofNat_toNat, BitVec.setWidth_eq]

theorem validHigh_iff (b : Byte) : validHigh b = true ↔ 256 * b.toNat ≤ 256 := by
  simp [validHigh, BitVec.le_def, highPart_toNat, Config.HIGH_LIMIT]

/-- Settles O32: in HIGH the two operations divide the bytes at 2; LOW has no condition on its byte. -/
theorem onlyTheHighByteIsRangeChecked : Obligations.OnlyTheHighByteIsRangeChecked := by
  intro s b es
  refine ⟨validHigh_iff b, fun hhigh => ?_, fun hlow => ?_⟩
  · obtain ⟨hsync, hawait⟩ := (control_high _).mp hhigh
    have hbound : 256 * b.toNat ≤ 256 ↔ b.toNat ≤ 1 := by omega
    rw [operation_given_cons_iff, operation_given_cons_iff, selects_highAccept_iff,
      selects_highReject_iff]
    simp [byteEdge, hsync, hawait, hbound]
  · obtain ⟨hsync, hawait⟩ := (control_low _).mp hlow
    exact operation_given_cons_iff.mpr (.low rfl rfl hsync hawait)

/-! ### HIGH_ACCEPT (R72) -/

/-- Settles O18: HIGH_ACCEPT overwrites the accumulator with the high byte's part, whatever it held. -/
theorem highAcceptTakesThePlausibleHighByte : Obligations.HighAcceptTakesThePlausibleHighByte := by
  refine ⟨fun s b _ => ?_, fun s b es hs hsync hawait hle => ?_⟩
  · rw [← highPart_eq_ofNat]
    exact exec_eq (.highAccept b) s
  · exact operation_and_step_of_selects hs (.highAccept rfl rfl hsync hawait hle)

/-! ### HIGH_REJECT (R73) -/

/-- R73, R29: the lookback is 0x00 in a frame, so a refused high byte leaves a clean SEEK. -/
theorem cleanSeek_perform_highReject {s : State} (b : Byte) (hinv : DecoderInv s)
    (hsync : s.decoder.syncState = .inFrame) : CleanSeek (perform (.highReject b) s) := by
  obtain ⟨-, hlookback, -⟩ := hinv
  exact ⟨rfl, rfl, by simp [decoderAfter, hlookback hsync]⟩

/-- Settles O19: from the clean SEEK that HIGH_REJECT leaves, two bytes 0x01 are a marker. -/
theorem highRejectAbandonsTheFrame : Obligations.HighRejectAbandonsTheFrame := by
  refine ⟨fun s b _ => ?_, fun s b es hs hsync hawait hge => ?_,
    fun s b es hinv hs hsync hawait hge => ?_⟩
  · rw [← highPart_eq_ofNat]
    exact exec_eq (.highReject b) s
  · exact operation_and_step_of_selects hs (.highReject rfl rfl hsync hawait hge)
  · have hreject : Selects s.decoder (byteEdge b) (.highReject b) :=
      .highReject rfl rfl hsync hawait hge
    have hclean := cleanSeek_perform_highReject b hinv hsync
    rw [← given_of_inputs hs, run_given_cons hreject]
    exact ⟨_, run_marker hclean 0 es, rfl, rfl⟩

/-! ### LOW (R74) -/

theorem dedupEvent_isSome_eq_decide (raw latch : Word16) :
    (dedupEvent raw latch).isSome = decide (raw ≠ latch) := by
  rw [Bool.eq_iff_iff, dedupEvent_isSome, decide_eq_true_eq]

theorem dedupEvent_getD (raw latch v : Word16) :
    (dedupEvent raw latch).getD v = if raw ≠ latch then raw else v := by
  by_cases h : raw = latch <;> simp [dedupEvent, h]

/-- Settles O20: the comparator of R77 reads the new sum and the old latch; the sum does not wrap,
since before LOW the accumulator is 0x0000 or 0x0100 (R30). -/
theorem lowCompletesDeduplicatesAndPublishes :
    Obligations.LowCompletesDeduplicatesAndPublishes := by
  refine ⟨fun s b => ?_, fun s b es hs hsync hawait => ?_, fun s b hinv hsync hawait => ?_⟩
  · rw [← dedupEvent_isSome_eq_decide, ← dedupEvent_getD]
    exact exec_eq (.low b) s
  · exact operation_and_step_of_selects hs (.low rfl rfl hsync hawait)
  · obtain ⟨-, -, hraw, -⟩ := hinv
    have hle : s.decoder.rawValue.toNat ≤ 256 := by
      rcases hraw hsync hawait with h | h <;> simp [h]
    have hsum := addLow_toNat s.decoder.rawValue b hle
    exact ⟨hsum, hsum ▸ addLow_le_511 b (hraw hsync hawait)⟩

end Sys2Proof.Proofs

namespace Sys2Proof.Proofs

open Sys2Proof.Machine Sys2Proof.Safety Sys2Proof.Laws

/-! ## The statements of spec/43_dedup_publish.md

LOW compares the assembled value with the latch and publishes it when they differ (R77, R78). What a
schedule of edges publishes and the state it leaves are composed piece by piece: a marker, a payload, a
rejected frame, noise, a reset. -/

/-! ### Reading a schedule -/

/-- From the registers of `s`, the edges `es` publish `ps` and leave the registers of `t`. -/
inductive Reads : State → List InputEdge → List Word16 → State → Prop
  | nil (s : State) : Reads s [] [] s
  | cons {s t : State} {e : InputEdge} {i : Instr} {es : List InputEdge} {ps : List Word16}
      (hi : Selects s.decoder e i) (hrest : Reads (perform i s) es ps t) :
      Reads s (e :: es) ((eventOf i s.decoder).toList ++ ps) t

namespace Reads

variable {s t u : State} {es es' : List InputEdge} {ps ps' : List Word16}

theorem append (h : Reads s es ps t) (h' : Reads t es' ps' u) :
    Reads s (es ++ es') (ps ++ ps') u := by
  induction h with
  | nil => exact h'
  | cons hi _ ih =>
    rw [List.cons_append, List.append_assoc]
    exact .cons hi (ih h')

theorem single {e : InputEdge} {i : Instr} (hi : Selects s.decoder e i) :
    Reads s [e] (eventOf i s.decoder).toList (perform i s) := by
  simpa using cons hi (nil _)

theorem published_eq (h : Reads s es ps t) : published es.length (given s es) = ps := by
  induction h with
  | nil => rfl
  | cons hi _ ih => rw [List.length_cons, published_given_cons hi, ih]

theorem run_eq (h : Reads s es ps t) : core.run es.length (given s es) = .next (given t []) := by
  induction h with
  | nil => rfl
  | cons hi _ ih => rw [List.length_cons, run_given_cons hi, ih]

end Reads

@[simp] theorem bytes_append (bs cs : List Byte) : bytes (bs ++ cs) = bytes bs ++ bytes cs :=
  List.map_append

@[simp] theorem length_bytes (bs : List Byte) : (bytes bs).length = bs.length :=
  List.length_map ..

@[simp] theorem length_frame (v : Word16) : (frame v).length = 4 := rfl

@[simp] theorem length_badFrame (h : Byte) : (badFrame h).length = 3 := rfl

/-! ### The changes of a run of values (R77, R78) -/

theorem changes_singleton (latch v : Word16) :
    changes latch [v] = if v = latch then [] else [v] :=
  ite_not ..

theorem changes_cons (latch v : Word16) (vs : List Word16) :
    changes latch (v :: vs) = changes latch [v] ++ changes v vs := by
  simp only [changes]
  split <;> rfl

theorem changes_replicate_append (v : Word16) (k : Nat) (vs : List Word16) :
    changes v (List.replicate k v ++ vs) = changes v vs := by
  induction k with
  | zero => rfl
  | succ k ih => simpa [List.replicate_succ, changes] using ih

/-- R77: the comparator's event is the change of one value. -/
theorem dedupEvent_toList (raw latch : Word16) :
    (dedupEvent raw latch).toList = changes latch [raw] := by
  simp only [dedupEvent, changes]
  split <;> rfl

/-! ### The pieces of a schedule -/

/-- R67, R68: from a clean SEEK two bytes 0x01 open a frame. -/
theorem reads_marker {s : State} (hclean : CleanSeek s) :
    Reads s (bytes [0x01#8, 0x01#8]) [] (perform .seekMark (perform (.seekShift 0x01#8) s)) := by
  obtain ⟨hsync, -, hlookback⟩ := hclean
  have hshift : Selects s.decoder (byteEdge 0x01#8) (.seekShift 0x01#8) :=
    .seekShift rfl rfl hsync fun hmark => hlookback hmark.2
  have hmark : Selects (perform (.seekShift 0x01#8) s).decoder (byteEdge 0x01#8) .seekMark :=
    selects_seekMark_of_lookback hsync rfl
  exact (Reads.single hshift).append (.single hmark)

/-- R72, R74, R77: in HIGH, an accepted high byte and the next byte complete the frame, and the value they
are assembled to is published if it changes the latch. -/
theorem reads_payload {s : State} {h : Byte} (l : Byte) (hhigh : s.decoder.control = .high)
    (hle : h.toNat ≤ 1) :
    Reads s (bytes [h, l]) (changes s.decoder.lastEmittedValue [addLow (highPart h) l])
      (perform (.low l) (perform (.highAccept h) s)) := by
  obtain ⟨hsync, hawait⟩ := (control_high _).mp hhigh
  have haccept : Selects s.decoder (byteEdge h) (.highAccept h) :=
    .highAccept rfl rfl hsync hawait hle
  have hlow : Selects (perform (.highAccept h) s).decoder (byteEdge l) (.low l) :=
    .low rfl rfl hsync rfl
  rw [← dedupEvent_toList]
  exact (Reads.single haccept).append (.single hlow)

/-- R49, R83: an accepted frame publishes its value if it changes the latch, and leaves it there. -/
theorem reads_frame {s : State} {v : Word16} (hclean : CleanSeek s) (hle : v.toNat ≤ 511) :
    ∃ t, Reads s (bytes (frame v)) (changes s.decoder.lastEmittedValue [v]) t ∧ CleanSeek t ∧
      t.decoder.lastEmittedValue = v := by
  have hhigh : ((v >>> 8).setWidth 8 : Byte).toNat ≤ 1 := by rw [toNat_frame_high]; omega
  have hreads := (reads_marker hclean).append (reads_payload (v.setWidth 8) rfl hhigh)
  rw [addLow_highPart_frame] at hreads
  exact ⟨_, hreads, ⟨rfl, rfl, by simp [decoderAfter]⟩, addLow_highPart_frame v⟩

/-- R83: a run of accepted frames publishes its changes. -/
theorem reads_frames {s : State} {vs : List Word16} (hclean : CleanSeek s)
    (hle : ∀ v ∈ vs, v.toNat ≤ 511) :
    ∃ t, Reads s (bytes (vs.map frame).flatten) (changes s.decoder.lastEmittedValue vs) t ∧
      CleanSeek t ∧ t.decoder.lastEmittedValue = vs.getLastD s.decoder.lastEmittedValue := by
  induction vs generalizing s with
  | nil => exact ⟨s, .nil s, hclean, rfl⟩
  | cons v vs ih =>
    obtain ⟨hv, hvs⟩ := List.forall_mem_cons.mp hle
    obtain ⟨t, hframe, ht, hlatch⟩ := reads_frame hclean hv
    obtain ⟨u, hrest, hu, hlast⟩ := ih ht hvs
    rw [hlatch] at hrest hlast
    refine ⟨u, ?_, hu, by rw [hlast, List.getLastD_cons]⟩
    rw [List.map_cons, List.flatten_cons, bytes_append, changes_cons]
    exact hframe.append hrest

/-- R73: a rejected frame publishes nothing, keeps the latch and leaves a clean SEEK. -/
theorem reads_badFrame {s : State} {h : Byte} (hclean : CleanSeek s) (hge : 2 ≤ h.toNat) :
    ∃ t, Reads s (bytes (badFrame h)) [] t ∧ CleanSeek t ∧
      t.decoder.lastEmittedValue = s.decoder.lastEmittedValue :=
  ⟨_, (reads_marker hclean).append (.single (.highReject rfl rfl rfl rfl hge)),
    ⟨rfl, rfl, by simp [decoderAfter]⟩, rfl⟩

/-- R68: in SEEK, bytes that complete no marker only pass through the lookback. -/
theorem reads_noise {s : State} {noise : List Byte} (hsync : s.decoder.syncState = .seeking)
    (hchain : (s.decoder.lastMarkerByte :: noise).IsChain
      fun x y => ¬ (x = 0x01#8 ∧ y = 0x01#8)) :
    ∃ t, Reads s (bytes noise) [] t ∧ t.decoder =
      { s.decoder with lastMarkerByte := noise.getLastD s.decoder.lastMarkerByte } := by
  induction noise generalizing s with
  | nil => exact ⟨s, .nil s, rfl⟩
  | cons b noise ih =>
    obtain ⟨hmark, hrest⟩ := List.isChain_cons_cons.mp hchain
    have hshift : Selects s.decoder (byteEdge b) (.seekShift b) :=
      .seekShift rfl rfl hsync fun h => hmark h.symm
    obtain ⟨t, ht, hdecoder⟩ := ih (s := perform (.seekShift b) s) hsync hrest
    exact ⟨t, .cons hshift ht, by rw [hdecoder, List.getLastD_cons]; rfl⟩

/-- Noise that holds no marker and leaves none half seen keeps a clean SEEK and the latch. -/
theorem reads_clean_noise {s : State} {noise : List Byte} (hclean : CleanSeek s)
    (hchain : noise.IsChain fun x y => ¬ (x = 0x01#8 ∧ y = 0x01#8))
    (hlast : noise.getLast? ≠ some 0x01#8) :
    ∃ t, Reads s (bytes noise) [] t ∧ CleanSeek t ∧
      t.decoder.lastEmittedValue = s.decoder.lastEmittedValue := by
  obtain ⟨hsync, hawait, hlookback⟩ := hclean
  obtain ⟨t, ht, hdecoder⟩ :=
    reads_noise hsync (List.isChain_cons.mpr ⟨fun _ _ h => hlookback h.1, hchain⟩)
  refine ⟨t, ht, ?_, by rw [hdecoder]⟩
  refine ⟨by rw [hdecoder, hsync], by rw [hdecoder, hawait], ?_⟩
  rw [hdecoder, List.getLastD_eq_getLast?]
  cases hend : noise.getLast? with
  | none => simpa using hlookback
  | some b => simpa [hend] using hlast

/-! ### Accepted frames (R83) -/

/-- Without `rst`, the edges that are no NOP are those of the bytes presented. -/
theorem filter_isActive_eq_bytes {es : List InputEdge} (hrst : ∀ e ∈ es, e.rst = false) :
    es.filter isActive = bytes (presented es) := by
  have hactive : es.filter isActive = es.filter (·.inValid) :=
    List.filter_congr fun e he => by simp [isActive, hrst e he]
  rw [hactive, bytes, presented, List.map_map, eq_comm, List.map_congr_left, List.map_id]
  intro e he
  obtain ⟨hmem, hvalid⟩ := List.mem_filter.mp he
  simp [byteEdge, ← hrst e hmem, ← hvalid]

/-- Settles O34: idle edges can be left out, and the frames are read by induction on their values. -/
theorem acceptedFramesPublishExactlyTheirChanges :
    Obligations.AcceptedFramesPublishExactlyTheirChanges := by
  intro s vs es hclean hle hrst hpresented
  have hactive : es.filter isActive = bytes (vs.map frame).flatten := by
    rw [filter_isActive_eq_bytes hrst, hpresented]
  obtain ⟨u, hreads, hu, hlatch⟩ := reads_frames hclean hle
  obtain ⟨t, t', ht, ht', hdecoder, -⟩ := run_filter_isActive s es
  rw [hactive, hreads.run_eq] at ht'
  obtain rfl := Host.Outcome.next.inj ht'
  replace hdecoder : t.decoder = u.decoder := hdecoder
  refine ⟨?_, t, ht, ?_, ?_⟩
  · rw [published_filter_isActive, hactive, hreads.published_eq]
  · simpa only [CleanSeek, hdecoder] using hu
  · rw [hdecoder]
    exact hlatch

/-- What a run of accepted frames publishes, presented byte by byte. -/
theorem published_frames {s : State} {vs : List Word16} (hclean : CleanSeek s)
    (hle : ∀ v ∈ vs, v.toNat ≤ 511) :
    published (4 * vs.length) (given s (bytes (vs.map frame).flatten)) =
      changes s.decoder.lastEmittedValue vs := by
  obtain ⟨t, hreads, -⟩ := reads_frames hclean hle
  have hlength : (bytes (vs.map frame).flatten).length = 4 * vs.length := by
    simp [List.length_flatten, Function.comp_def, Nat.mul_comm]
  rw [← hlength, hreads.published_eq]

/-! ### The comparator (R77) -/

/-- R77, R81: an event is the new sum of a LOW, and differs from the latch. -/
theorem eventOf_eq_some_iff {i : Instr} {d : DecoderState} {v : Word16} :
    eventOf i d = some v ↔
      ∃ b, i = .low b ∧ v = addLow d.rawValue b ∧ v ≠ d.lastEmittedValue := by
  cases i with
  | low b =>
    simp only [eventOf, dedupEvent_eq_some, Instr.low.injEq, exists_eq_left']
    constructor
    · rintro ⟨hne, rfl⟩
      exact ⟨rfl, hne⟩
    · rintro ⟨rfl, hne⟩
      exact ⟨hne, rfl⟩
  | _ => simp [eventOf]

/-- `s` with `w` in the latch. -/
def withLatch (s : State) (w : Word16) : State :=
  { s with decoder := { s.decoder with lastEmittedValue := w } }

/-- R77: an operation other than LOW does not read the latch, and only RESET writes it. -/
theorem perform_withLatch {i : Instr} (s : State) (w : Word16) (hi : i.op ≠ .low) :
    perform i (withLatch s w) = withLatch (perform i s)
      (if i.op = .reset then (perform i s).decoder.lastEmittedValue else w) := by
  cases i with
  | low b => exact absurd rfl hi
  | _ => rfl

/-- Settles O25: by what an event is, and since the latch is no part of the selector word (R55). -/
theorem onlyLowPublishesAndReadsTheLatch : Obligations.OnlyLowPublishesAndReadsTheLatch := by
  refine ⟨fun s t h => ?_, fun s t i w hi h => ?_, fun s w => rfl⟩
  · obtain ⟨i, hi, rfl⟩ := step_eq_next_iff.mp h
    rw [operation_eq_ok_iff.mpr hi, perform_pubValid, Option.isSome_iff_exists]
    simp only [eventOf_eq_some_iff, afterEdge_decoder, Except.ok.injEq]
    exact ⟨fun ⟨_, b, hb, rfl, hne⟩ => ⟨b, hb, hne⟩,
      fun ⟨b, hb, hne⟩ => ⟨_, b, hb, rfl, hne⟩⟩
  · obtain rfl := exec_eq_next_iff.mp h
    exact (exec_eq i (withLatch s w)).trans (congrArg _ (perform_withLatch s w hi))

/-- Settles O26: an event is the sum LOW writes to both registers; the bound is R31. -/
theorem anEventCarriesTheAssembledValue : Obligations.AnEventCarriesTheAssembledValue := by
  intro s t hinv h
  obtain ⟨-, hbound, -⟩ := publishedValuesFitNineBits s t hinv h
  obtain ⟨i, hi, rfl⟩ := step_eq_next_iff.mp h
  refine ⟨fun v hv => ?_, fun hnone hrst => ?_⟩
  · have hle := hbound v hv
    rw [perform_event] at hv
    obtain ⟨b, rfl, hsum, hne⟩ := eventOf_eq_some_iff.mp hv
    exact ⟨hsum, hsum, hne, hle⟩
  · have hreset : i ≠ .reset := by
      rintro rfl
      simp [selects_reset_iff, hrst] at hi
    rw [perform_event, afterEdge_decoder] at hnone
    simp [hreset, hnone]

/-! ### The measurement (R82) -/

theorem measurement_eq (v : Word16) : measurement v = (v.toNat : Rat) / 10 := rfl

theorem measurement_eq_zero_iff (v : Word16) : measurement v = 0 ↔ v = 0x0000#16 := by
  simp [measurement_eq, BitVec.toNat_eq]

/-- Settles O33: the event is at most 511, and differs from the old latch. -/
theorem measurementsAreExactTenths : Obligations.MeasurementsAreExactTenths := by
  intro s t v hinv h hv
  obtain ⟨hevent, -⟩ := anEventCarriesTheAssembledValue s t hinv h
  obtain ⟨-, -, hne, hle⟩ := hevent v hv
  refine ⟨⟨v.toNat, hle, rfl, ?_, fun _ _ => rfl⟩, fun hzero hlatch => ?_⟩
  · rw [measurement_eq, div_mul_cancel₀ _ (by norm_num)]
  · exact hne (((measurement_eq_zero_iff v).mp hzero).trans hlatch.symm)

/-! ### The sentinel (R79) -/

/-- Settles O35: the frames of value 0 repeat what the latch holds. -/
theorem zeroFramesBeforeAnyOtherAreSilent : Obligations.ZeroFramesBeforeAnyOtherAreSilent := by
  refine ⟨rfl, fun s k v hclean hlatch hv => ?_⟩
  have hle : ∀ w ∈ List.replicate k 0x0000#16 ++ [v], w.toNat ≤ 511 := by
    intro w hw
    rcases List.mem_append.mp hw with hw | hw
    · simp [List.eq_of_mem_replicate hw]
    · rwa [List.mem_singleton.mp hw]
  have hpub := published_frames hclean hle
  rw [hlatch, changes_replicate_append, changes_singleton] at hpub
  simpa [Nat.mul_add] using hpub

/-! ### What the deduplication remembers (R80) -/

/-- Settles O36: each of the three values differs from the one before. -/
theorem aReturningValueIsPublishedAgain : Obligations.AReturningValueIsPublishedAgain := by
  intro s a b hclean ha hb hab hlatch
  have hpub := published_frames (vs := [a, b, a]) hclean (by simp [ha, hb])
  simpa [changes, hab, hab.symm, hlatch] using hpub

/-- Settles O37: between the two frames of `a` the latch keeps `a` and control stays in a clean SEEK. -/
theorem rejectedFramesAndNoiseKeepTheDedup : Obligations.RejectedFramesAndNoiseKeepTheDedup := by
  intro s a h noise hclean ha hge hchain hlast
  obtain ⟨t₁, hfirst, hclean₁, hlatch₁⟩ := reads_frame hclean ha
  obtain ⟨t₂, hbad, hclean₂, hlatch₂⟩ := reads_badFrame hclean₁ hge
  obtain ⟨t₃, hnoise, hclean₃, hlatch₃⟩ := reads_clean_noise hclean₂ hchain hlast
  obtain ⟨t₄, hsecond, -, -⟩ := reads_frame hclean₃ ha
  have hpub := (((hfirst.append hbad).append hnoise).append hsecond).published_eq
  have hlength : noise.length + 11 = 4 + (3 + (noise.length + 4)) := by omega
  rw [hlatch₃, hlatch₂, hlatch₁] at hpub
  simpa [hlength, changes_singleton] using hpub

/-- Settles O38: RESET leaves a clean SEEK with the sentinel in the latch. -/
theorem resetMakesAnEqualValueNewAgain : Obligations.ResetMakesAnEqualValueNewAgain := by
  intro s a hclean ha
  obtain ⟨t, hfirst, -, -⟩ := reads_frame hclean ha
  have hreset : Reads t [resetEdge] [] (perform .reset t) := .single (.reset rfl)
  have hcleanReset : CleanSeek (perform .reset t) := ⟨rfl, rfl, show 0x00#8 ≠ 0x01#8 by decide⟩
  obtain ⟨u, hsecond, -, -⟩ := reads_frame hcleanReset ha
  have hpub := (hfirst.append (hreset.append hsecond)).published_eq
  simpa [changes_singleton, decoderAfter, DecoderState.reset, Config.LEV_INIT] using hpub

/-! ### A stray 0x01 (R83, R40) -/

/-- R52: with 0x01 as the high byte, the high byte of `v` is assembled to 256 plus itself. -/
theorem addLow_highPart_stray (v : Word16) :
    addLow (highPart 0x01#8) ((v >>> 8).setWidth 8) = 0x0100#16 + (v >>> 8) := by
  have hzext : zext16 ((v >>> 8).setWidth 8) = v >>> 8 := by
    apply BitVec.eq_of_toNat_eq
    have hv : v.toNat < 65536 := v.isLt
    rw [zext16, BitVec.toNat_setWidth, toNat_frame_high, BitVec.toNat_ushiftRight,
      Nat.shiftRight_eq_div_pow]
    omega
  rw [addLow, hzext]
  rfl

/-- Settles O39: the frame's second 0x01 is taken as the high byte, its high byte as the low one, and its
low byte is shifted into the lookback. -/
theorem aStrayOneMisreadsTheNextFrame : Obligations.AStrayOneMisreadsTheNextFrame := by
  intro s v hclean
  have hpayload := (reads_marker hclean).append
    (reads_payload (h := 0x01#8) ((v >>> 8).setWidth 8) rfl (by decide))
  have hreads := hpayload.append
    (.single (e := byteEdge (v.setWidth 8)) (.seekShift rfl rfl rfl (by simp [decoderAfter])))
  rw [addLow_highPart_stray, changes_singleton] at hreads
  exact ⟨hreads.published_eq.trans (List.append_nil _), _, hreads.run_eq, rfl, rfl⟩

end Sys2Proof.Proofs

namespace Sys2Proof.Proofs

open Sys2Proof.Machine Sys2Proof.Safety Sys2Proof.Laws

/-! ## The statements of spec/60_exceptions.md

The host's duties of R97. The byte source presents no byte during reset and asserts `rst` before the
first one, so its bytes are all read and the state before is forgotten; the sink samples every event,
each of which is shown for one cycle. -/

/-! ### The operation of a move -/

theorem Selects.eq_reset_iff {d : DecoderState} {e : InputEdge} {i : Instr} (h : Selects d e i) :
    i = .reset ↔ e.rst = true := by
  cases h <;> simp [*]

theorem Selects.eq_nop_iff {d : DecoderState} {e : InputEdge} {i : Instr} (h : Selects d e i) :
    i = .nop ↔ e.rst = false ∧ e.inValid = false := by
  cases h <;> simp [*]

@[simp] theorem op_eq_reset_iff (i : Instr) : i.op = .reset ↔ i = .reset := by
  cases i <;> simp [Instr.op]

@[simp] theorem op_eq_nop_iff (i : Instr) : i.op = .nop ↔ i = .nop := by
  cases i <;> simp [Instr.op]

/-- Settles O12: the duty leaves `rst = 0` at an edge that presents a byte. -/
theorem noByteIsLostWhileTheHostKeepsItsDuty :
    Obligations.NoByteIsLostWhileTheHostKeepsItsDuty := by
  intro s e es hs hduty hvalid
  have hrst : ¬ e.rst = true := fun hrst => by
    have hquiet := hduty e (by simp [hs]) hrst
    simp [hvalid] at hquiet
  obtain ⟨i, hi⟩ := exists_selects s.decoder e
  refine ⟨i, (operation_and_step_of_selects hs hi).1, ?_⟩
  simp [hi.eq_reset_iff, hi.eq_nop_iff, hrst, hvalid]

/-- R97: an edge is one of the byte source's exactly if it presents no byte during reset. -/
theorem exists_edge_eq_iff (e : InputEdge) :
    (∃ m : HostMove, m.edge = e) ↔ (e.rst = true → e.inValid = false) := by
  constructor
  · rintro ⟨m, rfl⟩
    exact edge_keeps_duty m
  · obtain ⟨rst, valid, b⟩ := e
    intro hduty
    cases rst with
    | true =>
      obtain rfl : valid = false := hduty rfl
      exact ⟨.reset b, rfl⟩
    | false =>
      cases valid with
      | true => exact ⟨.byte b, rfl⟩
      | false => exact ⟨.idle b, rfl⟩

theorem hostKeepsDuty_iff (es : List InputEdge) :
    HostKeepsDuty es ↔ ∃ ms : List HostMove, ms.map HostMove.edge = es := by
  change _ ↔ es ∈ Set.range (List.map HostMove.edge)
  simp [Set.range_list_map, exists_edge_eq_iff]

/-- Settles O45: edge by edge, and by the operation the move's edge selects. -/
theorem hostMovesAreTheEdgesThatKeepTheDuty : Obligations.HostMovesAreTheEdgesThatKeepTheDuty := by
  refine ⟨fun es => by simpa only [eq_comm] using hostKeepsDuty_iff es, fun s m ms => ?_⟩
  obtain ⟨i, hi⟩ := exists_selects s.decoder m.edge
  obtain ⟨hop, hstep⟩ := operation_and_step_of_selects (s := s.hosted (m :: ms)) rfl hi
  refine ⟨i, hop, hstep, ?_, ?_⟩
  · simp [hi.eq_reset_iff]
  · simp [hi.eq_nop_iff, and_comm]

/-! ### A schedule of moves -/

theorem streamOf_append (ms ms' : List HostMove) :
    streamOf (ms ++ ms') = streamOf ms ++ streamOf ms' := List.filterMap_append

theorem hosted_afterEdge (s : State) (ms : List HostMove) :
    (s.hosted ms).afterEdge = s.hosted ms.tail := by
  cases ms <;> rfl

/-- A step on a schedule of moves; an empty one stays empty. -/
theorem step_hosted {s : State} {ms : List HostMove} {i : Instr}
    (h : Selects s.decoder (s.hosted ms).edge i) :
    step (s.hosted ms) = .next ((perform i s).hosted ms.tail) := by
  rw [step_of_selects (s := s.hosted ms) h, hosted_afterEdge]
  rfl

theorem published_hosted {s : State} {ms : List HostMove} {i : Instr}
    (h : Selects s.decoder (s.hosted ms).edge i) (n : Nat) :
    published (n + 1) (s.hosted ms) =
      (eventOf i s.decoder).toList ++ published n ((perform i s).hosted ms.tail) := by
  rw [published_succ (step_hosted h), ← perform_event]
  rfl

/-- R43: the bytes a step and those after it read. -/
theorem taken_hosted {s : State} {ms : List HostMove} {i : Instr}
    (h : Selects s.decoder (s.hosted ms).edge i) (n : Nat) :
    taken (n + 1) (s.hosted ms) =
      (if i = .reset ∨ i = .nop then [] else [(s.hosted ms).edge.inByte]) ++
        taken n ((perform i s).hosted ms.tail) := by
  have hop : (s.hosted ms).operation = .ok i := operation_eq_ok_iff.mpr h
  simp [taken, hop, step_hosted h]

/-- R97: the operation at a move reads the byte presented, if there is one. -/
theorem byte?_toList_of_selects {d : DecoderState} {m : HostMove} {i : Instr}
    (h : Selects d m.edge i) :
    (if i = .reset ∨ i = .nop then [] else [m.edge.inByte]) = m.byte?.toList := by
  simp only [h.eq_reset_iff, h.eq_nop_iff]
  cases m <;> rfl

theorem taken_hosted_eq_streamOf_take (n : Nat) (s : State) (ms : List HostMove) :
    taken n (s.hosted ms) = streamOf (ms.take n) := by
  induction n generalizing s ms with
  | zero => rfl
  | succ n ih =>
    cases ms with
    | nil =>
      rw [taken_hosted (.nop rfl rfl), ih]
      simp [streamOf]
    | cons m ms =>
      obtain ⟨i, hi⟩ := exists_selects s.decoder m.edge
      rw [taken_hosted hi, ih, hosted_cons_edge, byte?_toList_of_selects hi, List.take_succ_cons,
        streamOf_cons, List.tail_cons]

/-- Settles O46: move by move, an operation reads exactly the byte presented. -/
theorem eachByteOfTheStreamIsTakenOnceInOrder :
    Obligations.EachByteOfTheStreamIsTakenOnceInOrder := by
  rintro s stream ms ⟨hstream, -⟩
  refine ⟨?_, fun n => taken_hosted_eq_streamOf_take n s ms⟩
  rw [taken_hosted_eq_streamOf_take, List.take_length, hstream]

/-! ### The state before the first RESET (R101) -/

/-- R98: RESET leaves nothing of the state before it. -/
theorem hosted_perform_reset (s s' : State) (ms : List HostMove) :
    (perform .reset s).hosted ms = (perform .reset s').hosted ms := rfl

/-- Settles O47, by induction on the number of edges: up to the first reset edge both runs are idle, and
there they meet. -/
theorem theStateBeforeResetIsUnobservable : Obligations.TheStateBeforeResetIsUnobservable := by
  rintro s s' stream ms n ⟨-, hfirst⟩
  induction n generalizing s s' ms with
  | zero => exact ⟨rfl, fun ⟨_, hx⟩ => absurd hx List.not_mem_nil⟩
  | succ n ih =>
    cases ms with
    | nil =>
      obtain ⟨hpub, -⟩ := ih (perform .nop s) (perform .nop s') [] rfl
      rw [published_hosted (.nop rfl rfl), published_hosted (.nop rfl rfl)]
      exact ⟨hpub, fun ⟨_, hx⟩ => absurd hx List.not_mem_nil⟩
    | cons m ms =>
      cases m with
      | byte b => cases hfirst
      | idle x =>
        obtain ⟨hpub, hrun⟩ := ih (perform .nop s) (perform .nop s') ms hfirst
        rw [published_hosted (.nop rfl rfl), published_hosted (.nop rfl rfl),
          run_succ (step_hosted (.nop rfl rfl)), run_succ (step_hosted (.nop rfl rfl))]
        exact ⟨hpub, fun hreset => hrun (by simpa using hreset)⟩
      | reset x =>
        rw [published_hosted (.reset rfl), published_hosted (.reset rfl),
          run_succ (step_hosted (.reset rfl)), run_succ (step_hosted (.reset rfl)),
          hosted_perform_reset s s']
        exact ⟨rfl, fun _ => rfl⟩

/-! ### What a sink receives -/

theorem event_eq_none_iff {s : State} : s.event = none ↔ s.pubValid = false := by
  simp [State.event]

theorem received_cons {s t : State} (h : step s = .next t) (sampled : Bool) (samples : List Bool) :
    received (sampled :: samples) s =
      (if sampled then t.event.toList else []) ++ received samples t := by
  simp only [received, h]

theorem sinkKeepsDuty_cons {s t : State} (h : step s = .next t) (sampled : Bool)
    (samples : List Bool) :
    SinkKeepsDuty (sampled :: samples) s ↔
      (t.pubValid = true → sampled = true) ∧ SinkKeepsDuty samples t := by
  simp only [SinkKeepsDuty, h]

theorem received_sublist_published (samples : List Bool) (s : State) :
    (received samples s).Sublist (published samples.length s) := by
  induction samples generalizing s with
  | nil => exact .slnil
  | cons sampled samples ih =>
    obtain ⟨t, ht⟩ := exists_step s
    rw [received_cons ht, List.length_cons, published_succ ht]
    cases sampled with
    | true => exact (ih t).append_left _
    | false => exact (ih t).trans (List.sublist_append_right ..)

/-- R97: all events are received exactly if none is missed. A missed one makes what is received shorter
than what is published. -/
theorem received_eq_published_iff (samples : List Bool) (s : State) :
    received samples s = published samples.length s ↔ SinkKeepsDuty samples s := by
  induction samples generalizing s with
  | nil => exact ⟨fun _ => trivial, fun _ => rfl⟩
  | cons sampled samples ih =>
    obtain ⟨t, ht⟩ := exists_step s
    rw [received_cons ht, List.length_cons, published_succ ht, sinkKeepsDuty_cons ht, ← ih t]
    cases sampled with
    | true => simp
    | false =>
      cases hev : t.event with
      | none => simp [event_eq_none_iff.mp hev]
      | some v =>
        obtain ⟨hvalid, -⟩ := event_eq_some_iff.mp hev
        have hshort := (received_sublist_published samples t).length_le
        have hne : received samples t ≠ v :: published samples.length t := fun heq => by
          rw [heq, List.length_cons] at hshort
          omega
        simpa [hvalid] using hne

/-- A sink that samples every cycle receives what is published. -/
theorem received_replicate_true (n : Nat) (s : State) :
    received (List.replicate n true) s = published n s := by
  induction n generalizing s with
  | zero => rfl
  | succ n ih =>
    obtain ⟨t, ht⟩ := exists_step s
    rw [List.replicate_succ, received_cons ht, published_succ ht, ih, if_pos rfl]

/-! ### An event is shown for one cycle, and the next one is another (R63, R77) -/

/-- R74, R81: an event is LOW's, which leaves control in SEEK and the event's value in the latch. -/
theorem seeking_and_latch_of_event {s t : State} {v : Word16} (h : step s = .next t)
    (hv : t.event = some v) : t.decoder.syncState = .seeking ∧ t.decoder.lastEmittedValue = v := by
  obtain ⟨i, -, rfl⟩ := step_eq_next_iff.mp h
  rw [perform_event] at hv
  obtain ⟨b, rfl, rfl, -⟩ := eventOf_eq_some_iff.mp hv
  exact ⟨rfl, rfl⟩

/-- R77: in SEEK no operation answers an event. -/
theorem Selects.eventOf_eq_none {d : DecoderState} {e : InputEdge} {i : Instr} (h : Selects d e i)
    (hsync : d.syncState = .seeking) : eventOf i d = none := by
  cases h with
  | low _ _ hframe => simp [hsync] at hframe
  | _ => rfl

/-- R78: but for RESET, an operation without an event keeps the latch. -/
theorem latch_decoderAfter {i : Instr} {d : DecoderState} (hi : i ≠ .reset)
    (hev : eventOf i d = none) : (decoderAfter i d).lastEmittedValue = d.lastEmittedValue := by
  cases i with
  | reset => exact absurd rfl hi
  | low b => simpa [eventOf, dedupEvent, decoderAfter] using hev
  | _ => rfl

theorem edge_rst_eq_false {s : State} (h : ∀ e ∈ s.inputs, e.rst = false) :
    s.edge.rst = false := by
  cases hs : s.inputs with
  | nil => rw [edge_nil hs]; rfl
  | cons e es =>
    rw [edge_cons s e es hs]
    exact h e (by simp [hs])

/-- R77: unless `rst` comes, the first value published is not the latch's. -/
theorem head?_published_ne_latch (n : Nat) {s : State} (hrst : ∀ e ∈ s.inputs, e.rst = false) :
    (published n s).head? ≠ some s.decoder.lastEmittedValue := by
  induction n generalizing s with
  | zero => simp [published]
  | succ n ih =>
    obtain ⟨i, hi⟩ := exists_selects s.decoder s.edge
    have hreset : i ≠ .reset := by simp [Ne, hi.eq_reset_iff, edge_rst_eq_false hrst]
    rw [published_succ (step_of_selects hi), perform_event, afterEdge_decoder]
    cases hev : eventOf i s.decoder with
    | some w =>
      obtain ⟨-, -, -, hne⟩ := eventOf_eq_some_iff.mp hev
      simpa using hne
    | none =>
      rw [← latch_decoderAfter hreset hev]
      exact ih (s := perform i s.afterEdge) fun e he => hrst e (List.mem_of_mem_tail he)

/-- Settles O48: after a LOW control is in SEEK, and the latch holds the value missed. -/
theorem anEventNotSampledInItsCycleIsLost : Obligations.AnEventNotSampledInItsCycleIsLost := by
  refine ⟨fun s t v h hv => ⟨?_, fun hrst n => ?_⟩, fun s samples =>
    ⟨received_sublist_published samples s, received_eq_published_iff samples s⟩⟩
  · obtain ⟨hsync, -⟩ := seeking_and_latch_of_event h hv
    obtain ⟨i, hi⟩ := exists_selects t.decoder t.edge
    have hnone : (perform i t.afterEdge).event = none :=
      (perform_event ..).trans (hi.eventOf_eq_none hsync)
    exact ⟨_, step_of_selects hi, event_eq_none_iff.mp hnone, hnone⟩
  · obtain ⟨-, rfl⟩ := seeking_and_latch_of_event h hv
    rw [received_cons h, received_replicate_true]
    exact ⟨head?_published_ne_latch n hrst, head?_published_ne_latch n hrst⟩

/-! ### Both sides together (R83) -/

theorem Reads.published_append {s t : State} {es : List InputEdge} {ps : List Word16}
    (h : Reads s es ps t) (n : Nat) (es' : List InputEdge) :
    published (es.length + n) (given s (es ++ es')) = ps ++ published n (given t es') := by
  induction h with
  | nil => simp
  | cons hi _ ih =>
    rw [List.length_cons, Nat.add_right_comm, List.cons_append, published_given_cons hi, ih,
      List.append_assoc]

/-- R66, R98: moves without a byte publish nothing and leave a decoder in its reset state there. -/
theorem reads_boot {s : State} {boot : List HostMove} (hreset : s.decoder = DecoderState.reset)
    (hsilent : streamOf boot = []) :
    ∃ t, Reads s (boot.map HostMove.edge) [] t ∧ t.decoder = DecoderState.reset := by
  induction boot generalizing s with
  | nil => exact ⟨s, .nil s, hreset⟩
  | cons m boot ih =>
    rw [streamOf_cons, List.append_eq_nil_iff] at hsilent
    obtain ⟨hm, hboot⟩ := hsilent
    cases m with
    | byte b => cases hm
    | idle x =>
      obtain ⟨t, ht, hdecoder⟩ := ih (s := perform .nop s) hreset hboot
      exact ⟨t, .cons (.nop rfl rfl) ht, hdecoder⟩
    | reset x =>
      obtain ⟨t, ht, hdecoder⟩ := ih (s := perform .reset s) rfl hboot
      exact ⟨t, .cons (.reset rfl) ht, hdecoder⟩

/-- Settles O49: the sink receives all that is published (R97), which is what a run from the reset state
publishes (R101); there the boot moves are silent, and what follows is an unbroken run of frames. -/
theorem hostsThatKeepTheirDutiesReceiveExactlyTheChanges :
    Obligations.HostsThatKeepTheirDutiesReceiveExactlyTheChanges := by
  intro s vs boot rest samples hsource hle hsilent _ hrest hlength hsink
  obtain ⟨hpub, -⟩ := theStateBeforeResetIsUnobservable s State.reset _ _ samples.length hsource
  obtain ⟨hstream, -⟩ := hsource
  obtain ⟨t, hboot, hdecoder⟩ := reads_boot (s := State.reset) rfl hsilent
  have hpresented : presented (rest.map HostMove.edge) = (vs.map frame).flatten := by
    rw [presented_edges, ← hstream, streamOf_append, hsilent, List.nil_append]
  have hclean : CleanSeek t := by simp [CleanSeek, hdecoder, DecoderState.reset]
  obtain ⟨hframes, -⟩ := acceptedFramesPublishExactlyTheirChanges t vs _ hclean hle
    (by simpa using hrest) hpresented
  rw [(received_eq_published_iff _ _).mpr hsink, hpub, hlength, hosted_eq_given, List.map_append,
    ← List.length_map (f := HostMove.edge) (as := boot),
    ← List.length_map (f := HostMove.edge) (as := rest), hboot.published_append, hframes, hdecoder]
  rfl

end Sys2Proof.Proofs

namespace Sys2Proof.Proofs

open Sys2Proof.Machine Sys2Proof.Safety Sys2Proof.Laws

/-! ## The statements of spec/70_reset_and_hazards.md

RESET (R98) wins over a presented byte (R100). Two hazards of the framing: a frame cut by the source
takes the first bytes of the next one as its own (R105), and two LOW steps stand apart (R104). -/

/-! ### RESET (R98 to R102) -/

/-- Settles O13: `rst` alone selects RESET, which reads no register. -/
theorem resetPutsEveryRegisterInItsResetValue :
    Obligations.ResetPutsEveryRegisterInItsResetValue := by
  refine ⟨exec_eq .reset, fun s e es hs hrst => ?_, fun s t h => ?_⟩
  · exact operation_and_step_of_selects hs (.reset hrst)
  · obtain rfl := exec_eq_next_iff.mp h
    exact exec_eq .reset _

/-- Settles O14: both edges select RESET, whose result depends on neither. -/
theorem resetDropsAPresentedByte : Obligations.ResetDropsAPresentedByte := by
  intro s valid b es
  have hbyte : Selects s.decoder ⟨true, valid, b⟩ .reset := .reset rfl
  have hreset : Selects s.decoder resetEdge .reset := .reset rfl
  exact ⟨by rw [step_given_cons hbyte, step_given_cons hreset], operation_given_cons_iff.mpr hbyte⟩

/-- Settles O27: the clauses of the invariant and of a clean SEEK are evaluated on the reset state. -/
theorem resetMeetsTheInvariant : Obligations.ResetMeetsTheInvariant :=
  ⟨by decide, by decide, rfl, rfl, rfl, rfl, rfl, rfl, rfl, rfl⟩

/-! ### A frame after a cut one (R105) -/

/-- R66: idle edges publish nothing and keep the decoder. -/
theorem reads_quiet (s : State) (xs : List Byte) :
    ∃ t, Reads s (xs.map quietEdge) [] t ∧ t.decoder = s.decoder := by
  induction xs generalizing s with
  | nil => exact ⟨s, .nil s, rfl⟩
  | cons x xs ih =>
    obtain ⟨t, ht, hdecoder⟩ := ih (perform .nop s)
    exact ⟨t, .cons (selects_quietEdge _ x) ht, hdecoder⟩

/-- R68: two bytes that complete no marker keep control in SEEK, and the latch. -/
theorem reads_pair_without_marker {s : State} (h l : Byte)
    (hsync : s.decoder.syncState = .seeking)
    (hlookback : ¬ (s.decoder.lastMarkerByte = 0x01#8 ∧ h = 0x01#8))
    (hpair : ¬ (h = 0x01#8 ∧ l = 0x01#8)) :
    ∃ t, Reads s (bytes [h, l]) [] t ∧
      t.decoder.lastEmittedValue = s.decoder.lastEmittedValue ∧ t.decoder.control = .seek := by
  obtain ⟨t, ht, hdecoder⟩ := reads_noise (noise := [h, l]) hsync
    (List.isChain_cons_cons.mpr ⟨hlookback, List.isChain_pair.mpr hpair⟩)
  exact ⟨t, ht, by rw [hdecoder], by rw [control_seek, hdecoder, hsync]⟩

/-- R67, R68: in a clean SEEK two bytes open a frame exactly if both are 0x01. -/
theorem reads_pair_in_clean_seek {s : State} (h l : Byte) (hclean : CleanSeek s) :
    ∃ t, Reads s (bytes [h, l]) [] t ∧
      t.decoder.lastEmittedValue = s.decoder.lastEmittedValue ∧
      t.decoder.control = if h = 0x01#8 ∧ l = 0x01#8 then .high else .seek := by
  split
  case isTrue hmark =>
    obtain ⟨rfl, rfl⟩ := hmark
    exact ⟨_, reads_marker hclean, rfl, rfl⟩
  case isFalse hmark =>
    obtain ⟨hsync, -, hlookback⟩ := hclean
    exact reads_pair_without_marker h l hsync (fun hone => hlookback hone.1) hmark

/-- R67, R71: with 0x01 in the lookback, the first of two bytes completes the marker exactly if it is
0x01, and the second is then an accepted high byte exactly if it is at most 1. -/
theorem reads_pair_after_one {s : State} (h l : Byte) (hsync : s.decoder.syncState = .seeking)
    (hlookback : s.decoder.lastMarkerByte = 0x01#8) :
    ∃ t, Reads s (bytes [h, l]) [] t ∧
      t.decoder.lastEmittedValue = s.decoder.lastEmittedValue ∧
      t.decoder.control = if h = 0x01#8 ∧ l.toNat ≤ 1 then .low else .seek := by
  by_cases hmark : h = 0x01#8
  · subst hmark
    have hopen : Reads s (bytes [0x01#8]) [] (perform .seekMark s) :=
      .single (selects_seekMark_of_lookback hsync hlookback)
    by_cases hle : l.toNat ≤ 1
    · have haccept : Selects (perform .seekMark s).decoder (byteEdge l) (.highAccept l) :=
        .highAccept rfl rfl rfl rfl hle
      exact ⟨_, hopen.append (.single haccept), rfl, by rw [if_pos ⟨rfl, hle⟩]; rfl⟩
    · have hreject : Selects (perform .seekMark s).decoder (byteEdge l) (.highReject l) :=
        .highReject rfl rfl rfl rfl (Nat.lt_of_not_le hle)
      exact ⟨_, hopen.append (.single hreject), rfl, by rw [if_neg fun hpair => hle hpair.2]; rfl⟩
  · rw [if_neg fun hpair => hmark hpair.1]
    exact reads_pair_without_marker h l hsync (fun hone => hmark hone.2) fun hpair => hmark hpair.1

/-- R53: the high byte of a frame is 0x01 for the values from 256 to 511. -/
theorem frame_high_eq_one_iff (v : Word16) :
    ((v >>> 8).setWidth 8 : Byte) = 0x01#8 ↔ v.toNat / 256 = 1 := by
  rw [BitVec.toNat_eq, toNat_frame_high]
  rfl

/-- R53: FRAME(257) is the frame whose payload is a marker. -/
theorem frame_payload_eq_one_one_iff (v : Word16) :
    ((v >>> 8).setWidth 8 : Byte) = 0x01#8 ∧ (v.setWidth 8 : Byte) = 0x01#8 ↔ v = 0x0101#16 := by
  rw [frame_high_eq_one_iff]
  simp only [BitVec.toNat_eq, BitVec.toNat_setWidth, BitVec.toNat_ofNat]
  omega

/-- R53: FRAME(256) and FRAME(257) are the frames whose payload is a marker byte and an accepted high
byte. -/
theorem frame_payload_eq_one_le_one_iff (v : Word16) :
    ((v >>> 8).setWidth 8 : Byte) = 0x01#8 ∧ (v.setWidth 8 : Byte).toNat ≤ 1 ↔
      v = 0x0100#16 ∨ v = 0x0101#16 := by
  rw [frame_high_eq_one_iff]
  simp only [BitVec.toNat_eq, BitVec.toNat_setWidth, BitVec.toNat_ofNat]
  omega

/-- R105, in HIGH: the marker of the next frame is read as the payload 0x0101. -/
theorem reads_frame_in_high {s : State} (v : Word16) (hlookback : s.decoder.lastMarkerByte = 0x00#8)
    (hhigh : s.decoder.control = .high) :
    ∃ t, Reads s (bytes (frame v)) (changes s.decoder.lastEmittedValue [0x0101#16]) t ∧
      t.decoder.lastEmittedValue = 0x0101#16 ∧
      t.decoder.control = if v = 0x0101#16 then .high else .seek := by
  have hpayload := reads_payload (h := 0x01#8) 0x01#8 hhigh (by decide)
  obtain ⟨t, hpair, hlatch, hcontrol⟩ := reads_pair_in_clean_seek
    (s := perform (.low 0x01#8) (perform (.highAccept 0x01#8) s))
    ((v >>> 8).setWidth 8) (v.setWidth 8) ⟨rfl, rfl, by simp [decoderAfter, hlookback]⟩
  have hframe := hpayload.append hpair
  rw [List.append_nil] at hframe
  simp only [frame_payload_eq_one_one_iff] at hcontrol
  exact ⟨t, hframe, hlatch, hcontrol⟩

/-- R105, in LOW: the first byte of the next frame is read as the low byte, the second as the first of
a marker. -/
theorem reads_frame_in_low {s : State} (v : Word16) (hlookback : s.decoder.lastMarkerByte = 0x00#8)
    (hlow : s.decoder.control = .low) :
    ∃ t, Reads s (bytes (frame v))
        (changes s.decoder.lastEmittedValue [s.decoder.rawValue + 0x0001#16]) t ∧
      t.decoder.lastEmittedValue = s.decoder.rawValue + 0x0001#16 ∧
      t.decoder.control = if v = 0x0100#16 ∨ v = 0x0101#16 then .low else .seek := by
  obtain ⟨hsync, hawait⟩ := (control_low _).mp hlow
  have hfirst : Selects s.decoder (byteEdge 0x01#8) (.low 0x01#8) := .low rfl rfl hsync hawait
  have hshift : Selects (perform (.low 0x01#8) s).decoder (byteEdge 0x01#8) (.seekShift 0x01#8) :=
    .seekShift rfl rfl rfl (by simp [decoderAfter, hlookback])
  obtain ⟨t, hpair, hlatch, hcontrol⟩ := reads_pair_after_one
    (s := perform (.seekShift 0x01#8) (perform (.low 0x01#8) s))
    ((v >>> 8).setWidth 8) (v.setWidth 8) rfl rfl
  have hframe := Reads.cons hfirst (.cons hshift hpair)
  simp only [frame_payload_eq_one_le_one_iff] at hcontrol
  rw [← dedupEvent_toList, ← List.append_nil (Option.toList _)]
  exact ⟨t, hframe, hlatch, hcontrol⟩

/-- Settles O40: after the idle edges the first bytes of the frame end the cut one, and its payload
decides where control is. -/
theorem aCutFrameSwallowsTheNext : Obligations.ACutFrameSwallowsTheNext := by
  intro s v xs hlookback
  obtain ⟨u, hquiet, hdecoder⟩ := reads_quiet s xs
  have hlength : (xs.map quietEdge ++ bytes (frame v)).length = xs.length + 4 := by simp
  rw [← hdecoder] at hlookback ⊢
  rw [← hlength]
  refine ⟨fun hhigh => ?_, fun hlow => ?_⟩
  · obtain ⟨t, hframe, hlatch, hcontrol⟩ := reads_frame_in_high v hlookback hhigh
    have hall := hquiet.append hframe
    rw [List.nil_append, changes_singleton] at hall
    exact ⟨hall.published_eq.trans (if_congr eq_comm rfl rfl), _, hall.run_eq, hlatch, hcontrol⟩
  · obtain ⟨t, hframe, hlatch, hcontrol⟩ := reads_frame_in_low v hlookback hlow
    have hall := hquiet.append hframe
    rw [List.nil_append, changes_singleton] at hall
    exact ⟨hall.published_eq, _, hall.run_eq, hlatch, hcontrol⟩

/-! ### The spacing of events (R104) -/

/-- The least number of edges before the one that can perform a LOW: the bytes of a frame still to be
read (R49). -/
def edgesBeforeLow (d : DecoderState) : Nat :=
  match d.control with
  | .low => 0
  | .high => 1
  | .seek => if d.lastMarkerByte = 0x01#8 then 2 else 3

theorem edgesBeforeLow_low {d : DecoderState} (h : d.control = .low) : edgesBeforeLow d = 0 := by
  rw [edgesBeforeLow, h]

theorem edgesBeforeLow_high {d : DecoderState} (h : d.control = .high) : edgesBeforeLow d = 1 := by
  rw [edgesBeforeLow, h]

theorem edgesBeforeLow_seek {d : DecoderState} (h : d.syncState = .seeking) :
    edgesBeforeLow d = if d.lastMarkerByte = 0x01#8 then 2 else 3 := by
  rw [edgesBeforeLow, (control_seek d).mpr h]

theorem edgesBeforeLow_seek_ge_two {d : DecoderState} (h : d.syncState = .seeking) :
    2 ≤ edgesBeforeLow d := by
  rw [edgesBeforeLow_seek h]
  split <;> decide

theorem edgesBeforeLow_le_three (d : DecoderState) : edgesBeforeLow d ≤ 3 := by
  cases h : d.control with
  | low => simp [edgesBeforeLow_low h]
  | high => simp [edgesBeforeLow_high h]
  | seek =>
    rw [edgesBeforeLow_seek ((control_seek d).mp h)]
    split <;> decide

/-- R104, R65: an edge brings LOW nearer by one at most. -/
theorem Selects.edgesBeforeLow_le {d : DecoderState} {e : InputEdge} {i : Instr}
    (h : Selects d e i) : edgesBeforeLow d ≤ edgesBeforeLow (decoderAfter i d) + 1 := by
  cases h with
  | reset => exact Nat.le_succ_of_le (edgesBeforeLow_le_three d)
  | nop => exact Nat.le_succ _
  | seekMark _ _ hsync _ hlookback =>
    have hafter : edgesBeforeLow (decoderAfter .seekMark d) = 1 := edgesBeforeLow_high rfl
    simp [edgesBeforeLow_seek hsync, hlookback, hafter]
  | seekShift _ _ hsync =>
    have hbefore := edgesBeforeLow_le_three d
    have hafter := edgesBeforeLow_seek_ge_two (d := decoderAfter (.seekShift e.inByte) d) hsync
    omega
  | highAccept _ _ hsync hawait =>
    simp [edgesBeforeLow_high ((control_high d).mpr ⟨hsync, hawait⟩)]
  | highReject _ _ hsync hawait =>
    simp [edgesBeforeLow_high ((control_high d).mpr ⟨hsync, hawait⟩)]
  | low _ _ hsync hawait =>
    simp [edgesBeforeLow_low ((control_low d).mpr ⟨hsync, hawait⟩)]

theorem Selects.edgesBeforeLow_eq_zero {d : DecoderState} {e : InputEdge} {b : Byte}
    (h : Selects d e (.low b)) : edgesBeforeLow d = 0 := by
  obtain ⟨-, -, hsync, hawait, -⟩ := selects_low_iff.mp h
  exact edgesBeforeLow_low ((control_low d).mpr ⟨hsync, hawait⟩)

/-- R104: `k` edges bring LOW nearer by `k` at most. -/
theorem edgesBeforeLow_le_of_run {k : Nat} {s u : State} (h : core.run k s = .next u) :
    edgesBeforeLow s.decoder ≤ edgesBeforeLow u.decoder + k := by
  induction k generalizing s with
  | zero =>
    obtain rfl := Host.Outcome.next.inj h
    exact Nat.le_refl _
  | succ k ih =>
    obtain ⟨i, hi⟩ := exists_selects s.decoder s.edge
    rw [run_succ (step_of_selects hi)] at h
    exact hi.edgesBeforeLow_le.trans (Nat.succ_le_succ (ih h))

/-- R77: nothing is published before a LOW. -/
theorem published_eq_nil_of_le_edgesBeforeLow {n : Nat} {s : State}
    (h : n ≤ edgesBeforeLow s.decoder) : published n s = [] := by
  induction n generalizing s with
  | zero => rfl
  | succ n ih =>
    obtain ⟨i, hi⟩ := exists_selects s.decoder s.edge
    have hnone : eventOf i s.decoder = none := by
      rw [Option.eq_none_iff_forall_ne_some]
      intro v hv
      obtain ⟨b, rfl, -⟩ := eventOf_eq_some_iff.mp hv
      rw [hi.edgesBeforeLow_eq_zero] at h
      exact absurd h (Nat.not_succ_le_zero n)
    rw [published_succ (step_of_selects hi), perform_event, afterEdge_decoder, hnone]
    exact ih (Nat.le_of_succ_le_succ (h.trans hi.edgesBeforeLow_le))

/-- Settles O41: the lookback is 0x00 in a frame (R29), so three edges must pass after a LOW before
the next one. -/
theorem eventsAreFourEdgesApart : Obligations.EventsAreFourEdgesApart := by
  intro s t b hinv hop hstep
  obtain ⟨-, hlookback, -⟩ := hinv
  have hlow := operation_eq_ok_iff.mp hop
  obtain ⟨-, -, hsync, -⟩ := selects_low_iff.mp hlow
  rw [step_of_selects hlow] at hstep
  obtain rfl := Host.Outcome.next.inj hstep
  have hthree : edgesBeforeLow (perform (.low b) s.afterEdge).decoder = 3 := by
    rw [edgesBeforeLow_seek rfl]
    simp [decoderAfter, hlookback hsync]
  refine ⟨fun k hk u hrun b' hop' => ?_, published_eq_nil_of_le_edgesBeforeLow hthree.ge⟩
  have hnear := edgesBeforeLow_le_of_run hrun
  rw [hthree, (operation_eq_ok_iff.mp hop').edgesBeforeLow_eq_zero] at hnear
  omega

end Sys2Proof.Proofs
